-- ==== Sys2Proof/Word.lean ====
section
/-! DEFINITION. The two word types of the machine (spec 00_scope.md R5, R7): every value is an unsigned bit
vector of 8 bits (registers, flags, every bus datum) or 16 bits (the program counter, every bus address).
BitVec addition and subtraction are the modular ones of R7 and R31. -/

namespace Sys2Proof

/-- `u8` of R7: a register value or one byte on the bus. -/
abbrev Byte := BitVec 8

/-- `u16` of R7: an address. -/
abbrev Word := BitVec 16

end Sys2Proof
end

