-- ==== Sys2Proof/Config.lean ====
section
/-! DEFINITION. The parameters of the machine (spec 00_scope.md R6), the bus among them, and the free values of the model.
The parameters are plain data and stand in `State.cfg`, so that a claim can name them and quantify over them; no step
changes them (assumption log 4). -/

namespace Sys2Proof

/-! ## The bus (spec 20_memory.md R41; assumption log 2) -/

/-- What stands behind a window of the address space that is not plain RAM: "an address may be ROM, unmapped, or a device
register" (R41). -/
inductive Backing where
  /-- A read answers the cell the host loaded there; a write changes nothing (R41, R52). -/
  | rom
  /-- The bus's own pair of functions: a device register, or nothing at all. -/
  | external
deriving DecidableEq, Repr

/-- One window, `first` to `last` inclusive. -/
structure Region where
  first   : Word
  last    : Word
  backing : Backing
deriving DecidableEq, Repr

/-- The parameter `Bus` (R6, D11). An address in no window is plain RAM; of windows that overlap the first listed decides.
Behind the external windows stands one system, whose state is a number. The pair of functions `BusRead` and `BusWrite` is
total: what `answers` and `effects` list of it is named, and what they do not list is free. -/
structure Bus where
  windows : List Region
  /-- `BusRead`: the state and the address, with the byte answered and the next state; a read may have side effects. -/
  answers : List ((Nat × Word) × (Byte × Nat))
  /-- `BusWrite`: the state, the address and the byte written, with the next state. -/
  effects : List ((Nat × Word × Byte) × Nat)
deriving DecidableEq, Repr

/-- Plain RAM at every address, the bus the spec's test vectors assume (R41). -/
def Bus.plainRam : Bus where
  windows := []
  answers := []
  effects := []

/-- FREE VALUE (assumption log 3): what `BusRead` answers where `Bus.answers` names nothing, and the state it leaves behind
the external windows, from the number of bus reads made, that state and the address. "The core assumes nothing about what a
read returns" (R41, U4). -/
opaque Config.freeAnswer (busReads device : Nat) (addr : Word) : Byte × Nat

/-- FREE VALUE (assumption log 3): the state a `BusWrite` leaves behind the external windows where `Bus.effects` names
nothing (R41, U4). -/
opaque Config.freeEffect (busReads device : Nat) (addr : Word) (v : Byte) : Nat

/-! ## All parameters -/

/-- The parameters of R6, each with the default the spec decides; `Bus` has none and must be supplied. -/
structure Config where
  /-- `P_SP_RESET` (D4): what `Reset` loads into SP. -/
  spReset        : Byte := 0xFF
  /-- `P_STACK_BASE` (D3): a stack access goes to this address plus SP. -/
  stackBase      : Word := 0x0100
  /-- `P_JMP_IND_WRAP` (D7): JMP Indirect takes both target bytes from one page. -/
  jmpIndWrap     : Bool := true
  /-- `P_ZP_PTR_WRAP` (D8): a zero-page pointer is fetched wholly inside the zero page. -/
  zpPtrWrap      : Bool := false
  /-- `P_SBC_TWOS` (D19): SBC negates its operand by two's complement. -/
  sbcTwos        : Bool := false
  /-- `CycleTable` (D22), written as (opcode, cost) pairs that replace the `base_cycles` column of
  `opcode_table.json`; none by default (assumption log 5). -/
  cycleOverrides : List (Byte × Nat) := []
  /-- `Bus` (D11). -/
  bus            : Bus
deriving DecidableEq, Repr

/-- All parameters at their defaults, on a supplied bus. -/
def Config.default (bus : Bus) : Config := { bus }

end Sys2Proof
end

