-- ==== Sys2Proof/Syntax.lean ====
section
/-! DEFINITION. The instruction set as syntax: the 56 mnemonics, the 13 mode tags, the opcode descriptor, and `Instr`
with one constructor for each of the 151 rows of spec/opcode_table.json (spec 30_encoding.md R60 to R67). Operand bytes
are whole bytes or words (R65): `d` an immediate datum, `z` a zero-page address, `w` a 16-bit operand
(little-endian in memory), `off` a branch offset. -/

namespace Sys2Proof

/-- The 56 mnemonics (R67). -/
inductive Mnemonic where
  | lda | ldx | ldy | sta | stx | sty | tax | tay
  | txa | tya | tsx | txs | pha | php | pla | plp
  | and | ora | eor | bit | adc | sbc | cmp | cpx
  | cpy | inc | dec | inx | iny | dex | dey | asl
  | lsr | rol | ror | jmp | jsr | rts | bcc | bcs
  | beq | bne | bmi | bpl | bvc | bvs | clc | cld
  | cli | clv | sec | sed | sei | brk | nop | rti
deriving DecidableEq, Repr

/-- The 13 mode tags (R64). -/
inductive ModeTag where
  | imp | acc | imm | zp | zpx | zpy | abs | abx | aby | ind | izx | izy | rel
deriving DecidableEq, Repr

/-- The class of extra cycles of an opcode (R66, column `cycle_bonus`). -/
inductive CycleBonus where
  | never | pageCross | branch
deriving DecidableEq, Repr

/-- A populated entry of the opcode table (R66). -/
structure Descriptor where
  opcode     : Byte
  length     : Nat
  baseCycles : Nat
  mode       : ModeTag
  op         : Mnemonic
  bonus      : CycleBonus
deriving DecidableEq, Repr

/-- A mode tag the resolver is defined for, with its operand (R100, R116). There is no implied or accumulator
constructor: "Implied/Accumulator modes must never be passed to the resolver" (R112, R233). -/
inductive AddrMode where
  | imm (d : Byte)
  | rel (off : Byte)
  | zp (z : Byte)
  | zpx (z : Byte)
  | zpy (z : Byte)
  | abs (w : Word)
  | abx (w : Word)
  | aby (w : Word)
  | ind (w : Word)
  | izx (z : Byte)
  | izy (z : Byte)
deriving DecidableEq, Repr

/-- Why the decoder gives no instruction. -/
inductive Reject where
  /-- No byte to decode. -/
  | empty
  /-- One of the 105 unpopulated opcode bytes (R68). -/
  | illegalOpcode (opcode : Byte)
  /-- Fewer operand bytes than the opcode's length asks for (R60). -/
  | truncated (opcode : Byte)
deriving DecidableEq, Repr

/-- The instructions: one constructor per row of spec/opcode_table.json. -/
inductive Instr where
  | ldaImm (d : Byte)
  | ldaZp (z : Byte)
  | ldaZpx (z : Byte)
  | ldaAbs (w : Word)
  | ldaAbx (w : Word)
  | ldaAby (w : Word)
  | ldaIzx (z : Byte)
  | ldaIzy (z : Byte)
  | ldxImm (d : Byte)
  | ldxZp (z : Byte)
  | ldxZpy (z : Byte)
  | ldxAbs (w : Word)
  | ldxAby (w : Word)
  | ldyImm (d : Byte)
  | ldyZp (z : Byte)
  | ldyZpx (z : Byte)
  | ldyAbs (w : Word)
  | ldyAbx (w : Word)
  | staZp (z : Byte)
  | staZpx (z : Byte)
  | staAbs (w : Word)
  | staAbx (w : Word)
  | staAby (w : Word)
  | staIzx (z : Byte)
  | staIzy (z : Byte)
  | stxZp (z : Byte)
  | stxZpy (z : Byte)
  | stxAbs (w : Word)
  | styZp (z : Byte)
  | styZpx (z : Byte)
  | styAbs (w : Word)
  | tax
  | tay
  | txa
  | tya
  | tsx
  | txs
  | pha
  | php
  | pla
  | plp
  | andImm (d : Byte)
  | andZp (z : Byte)
  | andZpx (z : Byte)
  | andAbs (w : Word)
  | andAbx (w : Word)
  | andAby (w : Word)
  | andIzx (z : Byte)
  | andIzy (z : Byte)
  | oraImm (d : Byte)
  | oraZp (z : Byte)
  | oraZpx (z : Byte)
  | oraAbs (w : Word)
  | oraAbx (w : Word)
  | oraAby (w : Word)
  | oraIzx (z : Byte)
  | oraIzy (z : Byte)
  | eorImm (d : Byte)
  | eorZp (z : Byte)
  | eorZpx (z : Byte)
  | eorAbs (w : Word)
  | eorAbx (w : Word)
  | eorAby (w : Word)
  | eorIzx (z : Byte)
  | eorIzy (z : Byte)
  | bitZp (z : Byte)
  | bitAbs (w : Word)
  | adcImm (d : Byte)
  | adcZp (z : Byte)
  | adcZpx (z : Byte)
  | adcAbs (w : Word)
  | adcAbx (w : Word)
  | adcAby (w : Word)
  | adcIzx (z : Byte)
  | adcIzy (z : Byte)
  | sbcImm (d : Byte)
  | sbcZp (z : Byte)
  | sbcZpx (z : Byte)
  | sbcAbs (w : Word)
  | sbcAbx (w : Word)
  | sbcAby (w : Word)
  | sbcIzx (z : Byte)
  | sbcIzy (z : Byte)
  | cmpImm (d : Byte)
  | cmpZp (z : Byte)
  | cmpZpx (z : Byte)
  | cmpAbs (w : Word)
  | cmpAbx (w : Word)
  | cmpAby (w : Word)
  | cmpIzx (z : Byte)
  | cmpIzy (z : Byte)
  | cpxImm (d : Byte)
  | cpxZp (z : Byte)
  | cpxAbs (w : Word)
  | cpyImm (d : Byte)
  | cpyZp (z : Byte)
  | cpyAbs (w : Word)
  | incZp (z : Byte)
  | incZpx (z : Byte)
  | incAbs (w : Word)
  | incAbx (w : Word)
  | decZp (z : Byte)
  | decZpx (z : Byte)
  | decAbs (w : Word)
  | decAbx (w : Word)
  | inx
  | iny
  | dex
  | dey
  | aslAcc
  | aslZp (z : Byte)
  | aslZpx (z : Byte)
  | aslAbs (w : Word)
  | aslAbx (w : Word)
  | lsrAcc
  | lsrZp (z : Byte)
  | lsrZpx (z : Byte)
  | lsrAbs (w : Word)
  | lsrAbx (w : Word)
  | rolAcc
  | rolZp (z : Byte)
  | rolZpx (z : Byte)
  | rolAbs (w : Word)
  | rolAbx (w : Word)
  | rorAcc
  | rorZp (z : Byte)
  | rorZpx (z : Byte)
  | rorAbs (w : Word)
  | rorAbx (w : Word)
  | jmpAbs (w : Word)
  | jmpInd (w : Word)
  | jsr (w : Word)
  | rts
  | bcc (off : Byte)
  | bcs (off : Byte)
  | beq (off : Byte)
  | bne (off : Byte)
  | bmi (off : Byte)
  | bpl (off : Byte)
  | bvc (off : Byte)
  | bvs (off : Byte)
  | clc
  | cld
  | cli
  | clv
  | sec
  | sed
  | sei
  | brk
  | nop
  | rti
deriving DecidableEq, Repr

end Sys2Proof
end

