-- ==== Sys2Proof/WellFormed.lean ====
section
/-! DEFINITION. Well-formedness. An `Instr` holds whole operand bytes and words, and every operand value is legal in
every format (spec 30_encoding.md R69), so every term of `Instr` is well formed by its type. What can be ill formed is a
row of the opcode table: the spec asks that the invariants R71 (a) to (f) be "checked facts of its table (a
well-formedness check), not ... runtime tests". They are checked here one by one. The parameters of R6 have one
well-formedness condition too (the low byte of `P_STACK_BASE` is 0). -/

namespace Sys2Proof

/-- The length of an instruction is a function of its mode tag (R64, R70). -/
def ModeTag.length : ModeTag → Nat
  | .imp | .acc => 1
  | .imm | .zp | .zpx | .zpy | .izx | .izy | .rel => 2
  | .abs | .abx | .aby | .ind => 3

/-- The mnemonics with no memory operand, whose only mode is IMP (R67). -/
def Mnemonic.isImplied : Mnemonic → Bool
  | .tax | .tay | .txa | .tya | .tsx | .txs | .pha | .php | .pla | .plp
  | .inx | .iny | .dex | .dey | .rts
  | .clc | .cld | .cli | .clv | .sec | .sed | .sei | .brk | .nop | .rti => true
  | _ => false

/-- The shift and rotate mnemonics, the only ones with an accumulator form (R71 (c), R176). -/
def Mnemonic.isShift : Mnemonic → Bool
  | .asl | .lsr | .rol | .ror => true
  | _ => false

/-- The eight branches (R71 (d), R193). -/
def Mnemonic.isBranch : Mnemonic → Bool
  | .bcc | .bcs | .beq | .bne | .bmi | .bpl | .bvc | .bvs => true
  | _ => false

/-- The mnemonics that write a memory operand: stores and read-modify-write operations (R71 (e), R9). -/
def Mnemonic.writesOperand : Mnemonic → Bool
  | .sta | .stx | .sty | .inc | .dec | .asl | .lsr | .rol | .ror => true
  | _ => false

/-- R71 (a): an operation that needs a memory operand is never paired with IMP or ACC (a shift in ACC mode needs none),
and an operation that needs none is paired with IMP alone. -/
def Descriptor.operandAgrees (d : Descriptor) : Bool :=
  match d.mode with
  | .imp => d.op.isImplied
  | .acc => d.op.isShift
  | _ => !d.op.isImplied

/-- R71 (b): IND appears only with JMP. -/
def Descriptor.indirectOnlyJmp (d : Descriptor) : Bool := d.mode != .ind || d.op == .jmp

/-- R71 (c): ACC appears only with ASL, LSR, ROL, ROR. -/
def Descriptor.accumulatorOnlyShift (d : Descriptor) : Bool := d.mode != .acc || d.op.isShift

/-- R71 (d): REL appears only with the eight branches, and they have no other mode. -/
def Descriptor.relativeIffBranch (d : Descriptor) : Bool := (d.mode == .rel) == d.op.isBranch

/-- R71 (e): store and read-modify-write operations never have IMM. -/
def Descriptor.noImmediateStore (d : Descriptor) : Bool := d.mode != .imm || !d.op.writesOperand

/-- R71 (f): the length agrees with the mode tag. -/
def Descriptor.lengthAgrees (d : Descriptor) : Bool := d.length == d.mode.length

/-- All of R71 for one row. -/
def Descriptor.wellFormed (d : Descriptor) : Bool :=
  d.operandAgrees && d.indirectOnlyJmp && d.accumulatorOnlyShift && d.relativeIffBranch &&
    d.noImmediateStore && d.lengthAgrees

/-- R6: the low byte of `P_STACK_BASE` is 0. -/
def Config.wellFormed (c : Config) : Bool := c.stackBase.toNat % 256 == 0

end Sys2Proof
end

