-- ==== Sys2Proof/Decode.lean ====
section
/-! DEFINITION. The opcode table (spec 30_encoding.md R66, R67), the decoder over it, total on any bytes and rejecting by
name, and the encoder, written from the encoding tables of the instruction rules (files 42 to 48). The byte helpers they
use stand here too. -/

namespace Sys2Proof

/-! ## Byte helpers (R7) -/

/-- `lo(w) = w[7:0]`. -/
def lo (w : Word) : Byte := w.setWidth 8

/-- `hi(w) = w[15:8]`. -/
def hi (w : Word) : Byte := (w >>> 8).setWidth 8

/-- `{h, l}`: the word with high byte `h` and low byte `l`. -/
def joinBytes (h l : Byte) : Word := h ++ l

/-- `zext_16(b)`. -/
def zext (b : Byte) : Word := b.setWidth 16

/-- `sext_16(b)`: the byte read as a two's-complement number. -/
def sext (b : Byte) : Word := b.signExtend 16

/-! ## The opcode table -/

/-- One cell of the opcode map: the descriptor and how the operand bytes (low, high) make the instruction. -/
abbrev Entry := Descriptor × (Byte → Byte → Instr)

/-- A cell from its columns: opcode, mnemonic, mode tag, length, base cycles, bonus class. -/
def entry (opcode : Byte) (op : Mnemonic) (mode : ModeTag) (length baseCycles : Nat) (bonus : CycleBonus)
    (make : Byte → Byte → Instr) : Entry :=
  (⟨opcode, length, baseCycles, mode, op, bonus⟩, make)

/-- Row 0x of the opcode map (R67). -/
def mapRow0 : List Entry := [
  entry 0x00 .brk .imp 1 7 .never (fun _ _ => .brk),
  entry 0x01 .ora .izx 2 6 .never (fun l _ => .oraIzx l),
  entry 0x05 .ora .zp 2 3 .never (fun l _ => .oraZp l),
  entry 0x06 .asl .zp 2 5 .never (fun l _ => .aslZp l),
  entry 0x08 .php .imp 1 3 .never (fun _ _ => .php),
  entry 0x09 .ora .imm 2 2 .never (fun l _ => .oraImm l),
  entry 0x0A .asl .acc 1 2 .never (fun _ _ => .aslAcc),
  entry 0x0D .ora .abs 3 4 .never (fun l h => .oraAbs (joinBytes h l)),
  entry 0x0E .asl .abs 3 6 .never (fun l h => .aslAbs (joinBytes h l))]

/-- Row 1x of the opcode map (R67). -/
def mapRow1 : List Entry := [
  entry 0x10 .bpl .rel 2 2 .branch (fun l _ => .bpl l),
  entry 0x11 .ora .izy 2 5 .pageCross (fun l _ => .oraIzy l),
  entry 0x15 .ora .zpx 2 4 .never (fun l _ => .oraZpx l),
  entry 0x16 .asl .zpx 2 6 .never (fun l _ => .aslZpx l),
  entry 0x18 .clc .imp 1 2 .never (fun _ _ => .clc),
  entry 0x19 .ora .aby 3 4 .pageCross (fun l h => .oraAby (joinBytes h l)),
  entry 0x1D .ora .abx 3 4 .pageCross (fun l h => .oraAbx (joinBytes h l)),
  entry 0x1E .asl .abx 3 7 .never (fun l h => .aslAbx (joinBytes h l))]

/-- Row 2x of the opcode map (R67). -/
def mapRow2 : List Entry := [
  entry 0x20 .jsr .abs 3 6 .never (fun l h => .jsr (joinBytes h l)),
  entry 0x21 .and .izx 2 6 .never (fun l _ => .andIzx l),
  entry 0x24 .bit .zp 2 3 .never (fun l _ => .bitZp l),
  entry 0x25 .and .zp 2 3 .never (fun l _ => .andZp l),
  entry 0x26 .rol .zp 2 5 .never (fun l _ => .rolZp l),
  entry 0x28 .plp .imp 1 4 .never (fun _ _ => .plp),
  entry 0x29 .and .imm 2 2 .never (fun l _ => .andImm l),
  entry 0x2A .rol .acc 1 2 .never (fun _ _ => .rolAcc),
  entry 0x2C .bit .abs 3 4 .never (fun l h => .bitAbs (joinBytes h l)),
  entry 0x2D .and .abs 3 4 .never (fun l h => .andAbs (joinBytes h l)),
  entry 0x2E .rol .abs 3 6 .never (fun l h => .rolAbs (joinBytes h l))]

/-- Row 3x of the opcode map (R67). -/
def mapRow3 : List Entry := [
  entry 0x30 .bmi .rel 2 2 .branch (fun l _ => .bmi l),
  entry 0x31 .and .izy 2 5 .pageCross (fun l _ => .andIzy l),
  entry 0x35 .and .zpx 2 4 .never (fun l _ => .andZpx l),
  entry 0x36 .rol .zpx 2 6 .never (fun l _ => .rolZpx l),
  entry 0x38 .sec .imp 1 2 .never (fun _ _ => .sec),
  entry 0x39 .and .aby 3 4 .pageCross (fun l h => .andAby (joinBytes h l)),
  entry 0x3D .and .abx 3 4 .pageCross (fun l h => .andAbx (joinBytes h l)),
  entry 0x3E .rol .abx 3 7 .never (fun l h => .rolAbx (joinBytes h l))]

/-- Row 4x of the opcode map (R67). -/
def mapRow4 : List Entry := [
  entry 0x40 .rti .imp 1 6 .never (fun _ _ => .rti),
  entry 0x41 .eor .izx 2 6 .never (fun l _ => .eorIzx l),
  entry 0x45 .eor .zp 2 3 .never (fun l _ => .eorZp l),
  entry 0x46 .lsr .zp 2 5 .never (fun l _ => .lsrZp l),
  entry 0x48 .pha .imp 1 3 .never (fun _ _ => .pha),
  entry 0x49 .eor .imm 2 2 .never (fun l _ => .eorImm l),
  entry 0x4A .lsr .acc 1 2 .never (fun _ _ => .lsrAcc),
  entry 0x4C .jmp .abs 3 3 .never (fun l h => .jmpAbs (joinBytes h l)),
  entry 0x4D .eor .abs 3 4 .never (fun l h => .eorAbs (joinBytes h l)),
  entry 0x4E .lsr .abs 3 6 .never (fun l h => .lsrAbs (joinBytes h l))]

/-- Row 5x of the opcode map (R67). -/
def mapRow5 : List Entry := [
  entry 0x50 .bvc .rel 2 2 .branch (fun l _ => .bvc l),
  entry 0x51 .eor .izy 2 5 .pageCross (fun l _ => .eorIzy l),
  entry 0x55 .eor .zpx 2 4 .never (fun l _ => .eorZpx l),
  entry 0x56 .lsr .zpx 2 6 .never (fun l _ => .lsrZpx l),
  entry 0x58 .cli .imp 1 2 .never (fun _ _ => .cli),
  entry 0x59 .eor .aby 3 4 .pageCross (fun l h => .eorAby (joinBytes h l)),
  entry 0x5D .eor .abx 3 4 .pageCross (fun l h => .eorAbx (joinBytes h l)),
  entry 0x5E .lsr .abx 3 7 .never (fun l h => .lsrAbx (joinBytes h l))]

/-- Row 6x of the opcode map (R67). -/
def mapRow6 : List Entry := [
  entry 0x60 .rts .imp 1 6 .never (fun _ _ => .rts),
  entry 0x61 .adc .izx 2 6 .never (fun l _ => .adcIzx l),
  entry 0x65 .adc .zp 2 3 .never (fun l _ => .adcZp l),
  entry 0x66 .ror .zp 2 5 .never (fun l _ => .rorZp l),
  entry 0x68 .pla .imp 1 4 .never (fun _ _ => .pla),
  entry 0x69 .adc .imm 2 2 .never (fun l _ => .adcImm l),
  entry 0x6A .ror .acc 1 2 .never (fun _ _ => .rorAcc),
  entry 0x6C .jmp .ind 3 5 .never (fun l h => .jmpInd (joinBytes h l)),
  entry 0x6D .adc .abs 3 4 .never (fun l h => .adcAbs (joinBytes h l)),
  entry 0x6E .ror .abs 3 6 .never (fun l h => .rorAbs (joinBytes h l))]

/-- Row 7x of the opcode map (R67). -/
def mapRow7 : List Entry := [
  entry 0x70 .bvs .rel 2 2 .branch (fun l _ => .bvs l),
  entry 0x71 .adc .izy 2 5 .pageCross (fun l _ => .adcIzy l),
  entry 0x75 .adc .zpx 2 4 .never (fun l _ => .adcZpx l),
  entry 0x76 .ror .zpx 2 6 .never (fun l _ => .rorZpx l),
  entry 0x78 .sei .imp 1 2 .never (fun _ _ => .sei),
  entry 0x79 .adc .aby 3 4 .pageCross (fun l h => .adcAby (joinBytes h l)),
  entry 0x7D .adc .abx 3 4 .pageCross (fun l h => .adcAbx (joinBytes h l)),
  entry 0x7E .ror .abx 3 7 .never (fun l h => .rorAbx (joinBytes h l))]

/-- Row 8x of the opcode map (R67). -/
def mapRow8 : List Entry := [
  entry 0x81 .sta .izx 2 6 .never (fun l _ => .staIzx l),
  entry 0x84 .sty .zp 2 3 .never (fun l _ => .styZp l),
  entry 0x85 .sta .zp 2 3 .never (fun l _ => .staZp l),
  entry 0x86 .stx .zp 2 3 .never (fun l _ => .stxZp l),
  entry 0x88 .dey .imp 1 2 .never (fun _ _ => .dey),
  entry 0x8A .txa .imp 1 2 .never (fun _ _ => .txa),
  entry 0x8C .sty .abs 3 4 .never (fun l h => .styAbs (joinBytes h l)),
  entry 0x8D .sta .abs 3 4 .never (fun l h => .staAbs (joinBytes h l)),
  entry 0x8E .stx .abs 3 4 .never (fun l h => .stxAbs (joinBytes h l))]

/-- Row 9x of the opcode map (R67). -/
def mapRow9 : List Entry := [
  entry 0x90 .bcc .rel 2 2 .branch (fun l _ => .bcc l),
  entry 0x91 .sta .izy 2 6 .never (fun l _ => .staIzy l),
  entry 0x94 .sty .zpx 2 4 .never (fun l _ => .styZpx l),
  entry 0x95 .sta .zpx 2 4 .never (fun l _ => .staZpx l),
  entry 0x96 .stx .zpy 2 4 .never (fun l _ => .stxZpy l),
  entry 0x98 .tya .imp 1 2 .never (fun _ _ => .tya),
  entry 0x99 .sta .aby 3 5 .never (fun l h => .staAby (joinBytes h l)),
  entry 0x9A .txs .imp 1 2 .never (fun _ _ => .txs),
  entry 0x9D .sta .abx 3 5 .never (fun l h => .staAbx (joinBytes h l))]

/-- Row Ax of the opcode map (R67). -/
def mapRowA : List Entry := [
  entry 0xA0 .ldy .imm 2 2 .never (fun l _ => .ldyImm l),
  entry 0xA1 .lda .izx 2 6 .never (fun l _ => .ldaIzx l),
  entry 0xA2 .ldx .imm 2 2 .never (fun l _ => .ldxImm l),
  entry 0xA4 .ldy .zp 2 3 .never (fun l _ => .ldyZp l),
  entry 0xA5 .lda .zp 2 3 .never (fun l _ => .ldaZp l),
  entry 0xA6 .ldx .zp 2 3 .never (fun l _ => .ldxZp l),
  entry 0xA8 .tay .imp 1 2 .never (fun _ _ => .tay),
  entry 0xA9 .lda .imm 2 2 .never (fun l _ => .ldaImm l),
  entry 0xAA .tax .imp 1 2 .never (fun _ _ => .tax),
  entry 0xAC .ldy .abs 3 4 .never (fun l h => .ldyAbs (joinBytes h l)),
  entry 0xAD .lda .abs 3 4 .never (fun l h => .ldaAbs (joinBytes h l)),
  entry 0xAE .ldx .abs 3 4 .never (fun l h => .ldxAbs (joinBytes h l))]

/-- Row Bx of the opcode map (R67). -/
def mapRowB : List Entry := [
  entry 0xB0 .bcs .rel 2 2 .branch (fun l _ => .bcs l),
  entry 0xB1 .lda .izy 2 5 .pageCross (fun l _ => .ldaIzy l),
  entry 0xB4 .ldy .zpx 2 4 .never (fun l _ => .ldyZpx l),
  entry 0xB5 .lda .zpx 2 4 .never (fun l _ => .ldaZpx l),
  entry 0xB6 .ldx .zpy 2 4 .never (fun l _ => .ldxZpy l),
  entry 0xB8 .clv .imp 1 2 .never (fun _ _ => .clv),
  entry 0xB9 .lda .aby 3 4 .pageCross (fun l h => .ldaAby (joinBytes h l)),
  entry 0xBA .tsx .imp 1 2 .never (fun _ _ => .tsx),
  entry 0xBC .ldy .abx 3 4 .pageCross (fun l h => .ldyAbx (joinBytes h l)),
  entry 0xBD .lda .abx 3 4 .pageCross (fun l h => .ldaAbx (joinBytes h l)),
  entry 0xBE .ldx .aby 3 4 .pageCross (fun l h => .ldxAby (joinBytes h l))]

/-- Row Cx of the opcode map (R67). -/
def mapRowC : List Entry := [
  entry 0xC0 .cpy .imm 2 2 .never (fun l _ => .cpyImm l),
  entry 0xC1 .cmp .izx 2 6 .never (fun l _ => .cmpIzx l),
  entry 0xC4 .cpy .zp 2 3 .never (fun l _ => .cpyZp l),
  entry 0xC5 .cmp .zp 2 3 .never (fun l _ => .cmpZp l),
  entry 0xC6 .dec .zp 2 5 .never (fun l _ => .decZp l),
  entry 0xC8 .iny .imp 1 2 .never (fun _ _ => .iny),
  entry 0xC9 .cmp .imm 2 2 .never (fun l _ => .cmpImm l),
  entry 0xCA .dex .imp 1 2 .never (fun _ _ => .dex),
  entry 0xCC .cpy .abs 3 4 .never (fun l h => .cpyAbs (joinBytes h l)),
  entry 0xCD .cmp .abs 3 4 .never (fun l h => .cmpAbs (joinBytes h l)),
  entry 0xCE .dec .abs 3 6 .never (fun l h => .decAbs (joinBytes h l))]

/-- Row Dx of the opcode map (R67). -/
def mapRowD : List Entry := [
  entry 0xD0 .bne .rel 2 2 .branch (fun l _ => .bne l),
  entry 0xD1 .cmp .izy 2 5 .pageCross (fun l _ => .cmpIzy l),
  entry 0xD5 .cmp .zpx 2 4 .never (fun l _ => .cmpZpx l),
  entry 0xD6 .dec .zpx 2 6 .never (fun l _ => .decZpx l),
  entry 0xD8 .cld .imp 1 2 .never (fun _ _ => .cld),
  entry 0xD9 .cmp .aby 3 4 .pageCross (fun l h => .cmpAby (joinBytes h l)),
  entry 0xDD .cmp .abx 3 4 .pageCross (fun l h => .cmpAbx (joinBytes h l)),
  entry 0xDE .dec .abx 3 7 .never (fun l h => .decAbx (joinBytes h l))]

/-- Row Ex of the opcode map (R67). -/
def mapRowE : List Entry := [
  entry 0xE0 .cpx .imm 2 2 .never (fun l _ => .cpxImm l),
  entry 0xE1 .sbc .izx 2 6 .never (fun l _ => .sbcIzx l),
  entry 0xE4 .cpx .zp 2 3 .never (fun l _ => .cpxZp l),
  entry 0xE5 .sbc .zp 2 3 .never (fun l _ => .sbcZp l),
  entry 0xE6 .inc .zp 2 5 .never (fun l _ => .incZp l),
  entry 0xE8 .inx .imp 1 2 .never (fun _ _ => .inx),
  entry 0xE9 .sbc .imm 2 2 .never (fun l _ => .sbcImm l),
  entry 0xEA .nop .imp 1 2 .never (fun _ _ => .nop),
  entry 0xEC .cpx .abs 3 4 .never (fun l h => .cpxAbs (joinBytes h l)),
  entry 0xED .sbc .abs 3 4 .never (fun l h => .sbcAbs (joinBytes h l)),
  entry 0xEE .inc .abs 3 6 .never (fun l h => .incAbs (joinBytes h l))]

/-- Row Fx of the opcode map (R67). -/
def mapRowF : List Entry := [
  entry 0xF0 .beq .rel 2 2 .branch (fun l _ => .beq l),
  entry 0xF1 .sbc .izy 2 5 .pageCross (fun l _ => .sbcIzy l),
  entry 0xF5 .sbc .zpx 2 4 .never (fun l _ => .sbcZpx l),
  entry 0xF6 .inc .zpx 2 6 .never (fun l _ => .incZpx l),
  entry 0xF8 .sed .imp 1 2 .never (fun _ _ => .sed),
  entry 0xF9 .sbc .aby 3 4 .pageCross (fun l h => .sbcAby (joinBytes h l)),
  entry 0xFD .sbc .abx 3 4 .pageCross (fun l h => .sbcAbx (joinBytes h l)),
  entry 0xFE .inc .abx 3 7 .never (fun l h => .incAbx (joinBytes h l))]

/-- The row of the opcode map for a high nibble. -/
def mapRow : Nat → List Entry
  | 0 => mapRow0
  | 1 => mapRow1
  | 2 => mapRow2
  | 3 => mapRow3
  | 4 => mapRow4
  | 5 => mapRow5
  | 6 => mapRow6
  | 7 => mapRow7
  | 8 => mapRow8
  | 9 => mapRow9
  | 10 => mapRowA
  | 11 => mapRowB
  | 12 => mapRowC
  | 13 => mapRowD
  | 14 => mapRowE
  | _ => mapRowF

/-- The cell of an opcode byte, if it is populated. -/
def lookup (b : Byte) : Option Entry := (mapRow (b.toNat / 16)).find? fun e => e.1.opcode == b

/-- `Table : u8 -> Option Descriptor` (R66): total on every byte. -/
def table (b : Byte) : Option Descriptor := (lookup b).map Prod.fst

/-- All 151 populated cells, row by row. -/
def allEntries : List Entry :=
  mapRow0 ++ mapRow1 ++ mapRow2 ++ mapRow3 ++ mapRow4 ++ mapRow5 ++ mapRow6 ++ mapRow7 ++
  mapRow8 ++ mapRow9 ++ mapRowA ++ mapRowB ++ mapRowC ++ mapRowD ++ mapRowE ++ mapRowF

/-! ## The decoder -/

/-- The operand bytes of an instruction of `length` bytes taken from the bytes after the opcode (R60 to R63): the low
byte, the high byte (0 where the format has none) and the bytes left over. -/
def takeOperands : Nat → List Byte → Option (Byte × Byte × List Byte)
  | 1, rest => some (0, 0, rest)
  | 2, l :: rest => some (l, 0, rest)
  | 3, l :: h :: rest => some (l, h, rest)
  | _, _ => none

/-- Decode one instruction from the front of a list of bytes (R60, R66): the instruction and the bytes after it. -/
def decode : List Byte → Except Reject (Instr × List Byte)
  | [] => .error .empty
  | b :: rest =>
    match lookup b with
    | none => .error (.illegalOpcode b)
    | some e =>
      match takeOperands e.1.length rest with
      | none => .error (.truncated b)
      | some (l, h, rest') => .ok (e.2 l h, rest')

/-! ## The encoder -/

/-- The bytes of an instruction in ascending addresses (R61 to R63), from the encoding tables of the rules. -/
def encode : Instr → List Byte
  | .ldaImm d => [0xA9, d]
  | .ldaZp z => [0xA5, z]
  | .ldaZpx z => [0xB5, z]
  | .ldaAbs w => [0xAD, lo w, hi w]
  | .ldaAbx w => [0xBD, lo w, hi w]
  | .ldaAby w => [0xB9, lo w, hi w]
  | .ldaIzx z => [0xA1, z]
  | .ldaIzy z => [0xB1, z]
  | .ldxImm d => [0xA2, d]
  | .ldxZp z => [0xA6, z]
  | .ldxZpy z => [0xB6, z]
  | .ldxAbs w => [0xAE, lo w, hi w]
  | .ldxAby w => [0xBE, lo w, hi w]
  | .ldyImm d => [0xA0, d]
  | .ldyZp z => [0xA4, z]
  | .ldyZpx z => [0xB4, z]
  | .ldyAbs w => [0xAC, lo w, hi w]
  | .ldyAbx w => [0xBC, lo w, hi w]
  | .staZp z => [0x85, z]
  | .staZpx z => [0x95, z]
  | .staAbs w => [0x8D, lo w, hi w]
  | .staAbx w => [0x9D, lo w, hi w]
  | .staAby w => [0x99, lo w, hi w]
  | .staIzx z => [0x81, z]
  | .staIzy z => [0x91, z]
  | .stxZp z => [0x86, z]
  | .stxZpy z => [0x96, z]
  | .stxAbs w => [0x8E, lo w, hi w]
  | .styZp z => [0x84, z]
  | .styZpx z => [0x94, z]
  | .styAbs w => [0x8C, lo w, hi w]
  | .tax => [0xAA]
  | .tay => [0xA8]
  | .txa => [0x8A]
  | .tya => [0x98]
  | .tsx => [0xBA]
  | .txs => [0x9A]
  | .pha => [0x48]
  | .php => [0x08]
  | .pla => [0x68]
  | .plp => [0x28]
  | .andImm d => [0x29, d]
  | .andZp z => [0x25, z]
  | .andZpx z => [0x35, z]
  | .andAbs w => [0x2D, lo w, hi w]
  | .andAbx w => [0x3D, lo w, hi w]
  | .andAby w => [0x39, lo w, hi w]
  | .andIzx z => [0x21, z]
  | .andIzy z => [0x31, z]
  | .oraImm d => [0x09, d]
  | .oraZp z => [0x05, z]
  | .oraZpx z => [0x15, z]
  | .oraAbs w => [0x0D, lo w, hi w]
  | .oraAbx w => [0x1D, lo w, hi w]
  | .oraAby w => [0x19, lo w, hi w]
  | .oraIzx z => [0x01, z]
  | .oraIzy z => [0x11, z]
  | .eorImm d => [0x49, d]
  | .eorZp z => [0x45, z]
  | .eorZpx z => [0x55, z]
  | .eorAbs w => [0x4D, lo w, hi w]
  | .eorAbx w => [0x5D, lo w, hi w]
  | .eorAby w => [0x59, lo w, hi w]
  | .eorIzx z => [0x41, z]
  | .eorIzy z => [0x51, z]
  | .bitZp z => [0x24, z]
  | .bitAbs w => [0x2C, lo w, hi w]
  | .adcImm d => [0x69, d]
  | .adcZp z => [0x65, z]
  | .adcZpx z => [0x75, z]
  | .adcAbs w => [0x6D, lo w, hi w]
  | .adcAbx w => [0x7D, lo w, hi w]
  | .adcAby w => [0x79, lo w, hi w]
  | .adcIzx z => [0x61, z]
  | .adcIzy z => [0x71, z]
  | .sbcImm d => [0xE9, d]
  | .sbcZp z => [0xE5, z]
  | .sbcZpx z => [0xF5, z]
  | .sbcAbs w => [0xED, lo w, hi w]
  | .sbcAbx w => [0xFD, lo w, hi w]
  | .sbcAby w => [0xF9, lo w, hi w]
  | .sbcIzx z => [0xE1, z]
  | .sbcIzy z => [0xF1, z]
  | .cmpImm d => [0xC9, d]
  | .cmpZp z => [0xC5, z]
  | .cmpZpx z => [0xD5, z]
  | .cmpAbs w => [0xCD, lo w, hi w]
  | .cmpAbx w => [0xDD, lo w, hi w]
  | .cmpAby w => [0xD9, lo w, hi w]
  | .cmpIzx z => [0xC1, z]
  | .cmpIzy z => [0xD1, z]
  | .cpxImm d => [0xE0, d]
  | .cpxZp z => [0xE4, z]
  | .cpxAbs w => [0xEC, lo w, hi w]
  | .cpyImm d => [0xC0, d]
  | .cpyZp z => [0xC4, z]
  | .cpyAbs w => [0xCC, lo w, hi w]
  | .incZp z => [0xE6, z]
  | .incZpx z => [0xF6, z]
  | .incAbs w => [0xEE, lo w, hi w]
  | .incAbx w => [0xFE, lo w, hi w]
  | .decZp z => [0xC6, z]
  | .decZpx z => [0xD6, z]
  | .decAbs w => [0xCE, lo w, hi w]
  | .decAbx w => [0xDE, lo w, hi w]
  | .inx => [0xE8]
  | .iny => [0xC8]
  | .dex => [0xCA]
  | .dey => [0x88]
  | .aslAcc => [0x0A]
  | .aslZp z => [0x06, z]
  | .aslZpx z => [0x16, z]
  | .aslAbs w => [0x0E, lo w, hi w]
  | .aslAbx w => [0x1E, lo w, hi w]
  | .lsrAcc => [0x4A]
  | .lsrZp z => [0x46, z]
  | .lsrZpx z => [0x56, z]
  | .lsrAbs w => [0x4E, lo w, hi w]
  | .lsrAbx w => [0x5E, lo w, hi w]
  | .rolAcc => [0x2A]
  | .rolZp z => [0x26, z]
  | .rolZpx z => [0x36, z]
  | .rolAbs w => [0x2E, lo w, hi w]
  | .rolAbx w => [0x3E, lo w, hi w]
  | .rorAcc => [0x6A]
  | .rorZp z => [0x66, z]
  | .rorZpx z => [0x76, z]
  | .rorAbs w => [0x6E, lo w, hi w]
  | .rorAbx w => [0x7E, lo w, hi w]
  | .jmpAbs w => [0x4C, lo w, hi w]
  | .jmpInd w => [0x6C, lo w, hi w]
  | .jsr w => [0x20, lo w, hi w]
  | .rts => [0x60]
  | .bcc off => [0x90, off]
  | .bcs off => [0xB0, off]
  | .beq off => [0xF0, off]
  | .bne off => [0xD0, off]
  | .bmi off => [0x30, off]
  | .bpl off => [0x10, off]
  | .bvc off => [0x50, off]
  | .bvs off => [0x70, off]
  | .clc => [0x18]
  | .cld => [0xD8]
  | .cli => [0x58]
  | .clv => [0xB8]
  | .sec => [0x38]
  | .sed => [0xF8]
  | .sei => [0x78]
  | .brk => [0x00]
  | .nop => [0xEA]
  | .rti => [0x40]

/-- The opcode byte of an instruction. -/
def Instr.opcode (i : Instr) : Byte := (encode i).headD 0

/-- The length of an instruction in bytes (R60, R70). -/
def Instr.length (i : Instr) : Nat := (encode i).length

/-! ## What a constructor stands for (R67) -/

/-- The mnemonic of an instruction. -/
def Instr.mnemonic : Instr → Mnemonic
  | .ldaImm _ | .ldaZp _ | .ldaZpx _ | .ldaAbs _ | .ldaAbx _ | .ldaAby _ | .ldaIzx _ | .ldaIzy _ => .lda
  | .ldxImm _ | .ldxZp _ | .ldxZpy _ | .ldxAbs _ | .ldxAby _ => .ldx
  | .ldyImm _ | .ldyZp _ | .ldyZpx _ | .ldyAbs _ | .ldyAbx _ => .ldy
  | .staZp _ | .staZpx _ | .staAbs _ | .staAbx _ | .staAby _ | .staIzx _ | .staIzy _ => .sta
  | .stxZp _ | .stxZpy _ | .stxAbs _ => .stx
  | .styZp _ | .styZpx _ | .styAbs _ => .sty
  | .tax => .tax
  | .tay => .tay
  | .txa => .txa
  | .tya => .tya
  | .tsx => .tsx
  | .txs => .txs
  | .pha => .pha
  | .php => .php
  | .pla => .pla
  | .plp => .plp
  | .andImm _ | .andZp _ | .andZpx _ | .andAbs _ | .andAbx _ | .andAby _ | .andIzx _ | .andIzy _ => .and
  | .oraImm _ | .oraZp _ | .oraZpx _ | .oraAbs _ | .oraAbx _ | .oraAby _ | .oraIzx _ | .oraIzy _ => .ora
  | .eorImm _ | .eorZp _ | .eorZpx _ | .eorAbs _ | .eorAbx _ | .eorAby _ | .eorIzx _ | .eorIzy _ => .eor
  | .bitZp _ | .bitAbs _ => .bit
  | .adcImm _ | .adcZp _ | .adcZpx _ | .adcAbs _ | .adcAbx _ | .adcAby _ | .adcIzx _ | .adcIzy _ => .adc
  | .sbcImm _ | .sbcZp _ | .sbcZpx _ | .sbcAbs _ | .sbcAbx _ | .sbcAby _ | .sbcIzx _ | .sbcIzy _ => .sbc
  | .cmpImm _ | .cmpZp _ | .cmpZpx _ | .cmpAbs _ | .cmpAbx _ | .cmpAby _ | .cmpIzx _ | .cmpIzy _ => .cmp
  | .cpxImm _ | .cpxZp _ | .cpxAbs _ => .cpx
  | .cpyImm _ | .cpyZp _ | .cpyAbs _ => .cpy
  | .incZp _ | .incZpx _ | .incAbs _ | .incAbx _ => .inc
  | .decZp _ | .decZpx _ | .decAbs _ | .decAbx _ => .dec
  | .inx => .inx
  | .iny => .iny
  | .dex => .dex
  | .dey => .dey
  | .aslAcc | .aslZp _ | .aslZpx _ | .aslAbs _ | .aslAbx _ => .asl
  | .lsrAcc | .lsrZp _ | .lsrZpx _ | .lsrAbs _ | .lsrAbx _ => .lsr
  | .rolAcc | .rolZp _ | .rolZpx _ | .rolAbs _ | .rolAbx _ => .rol
  | .rorAcc | .rorZp _ | .rorZpx _ | .rorAbs _ | .rorAbx _ => .ror
  | .jmpAbs _ | .jmpInd _ => .jmp
  | .jsr _ => .jsr
  | .rts => .rts
  | .bcc _ => .bcc
  | .bcs _ => .bcs
  | .beq _ => .beq
  | .bne _ => .bne
  | .bmi _ => .bmi
  | .bpl _ => .bpl
  | .bvc _ => .bvc
  | .bvs _ => .bvs
  | .clc => .clc
  | .cld => .cld
  | .cli => .cli
  | .clv => .clv
  | .sec => .sec
  | .sed => .sed
  | .sei => .sei
  | .brk => .brk
  | .nop => .nop
  | .rti => .rti

/-- The addressing mode of an instruction with its operand; none for IMP and ACC (R112). -/
def Instr.addrMode : Instr → Option AddrMode
  | .ldaImm d => some (.imm d)
  | .ldaZp z => some (.zp z)
  | .ldaZpx z => some (.zpx z)
  | .ldaAbs w => some (.abs w)
  | .ldaAbx w => some (.abx w)
  | .ldaAby w => some (.aby w)
  | .ldaIzx z => some (.izx z)
  | .ldaIzy z => some (.izy z)
  | .ldxImm d => some (.imm d)
  | .ldxZp z => some (.zp z)
  | .ldxZpy z => some (.zpy z)
  | .ldxAbs w => some (.abs w)
  | .ldxAby w => some (.aby w)
  | .ldyImm d => some (.imm d)
  | .ldyZp z => some (.zp z)
  | .ldyZpx z => some (.zpx z)
  | .ldyAbs w => some (.abs w)
  | .ldyAbx w => some (.abx w)
  | .staZp z => some (.zp z)
  | .staZpx z => some (.zpx z)
  | .staAbs w => some (.abs w)
  | .staAbx w => some (.abx w)
  | .staAby w => some (.aby w)
  | .staIzx z => some (.izx z)
  | .staIzy z => some (.izy z)
  | .stxZp z => some (.zp z)
  | .stxZpy z => some (.zpy z)
  | .stxAbs w => some (.abs w)
  | .styZp z => some (.zp z)
  | .styZpx z => some (.zpx z)
  | .styAbs w => some (.abs w)
  | .andImm d => some (.imm d)
  | .andZp z => some (.zp z)
  | .andZpx z => some (.zpx z)
  | .andAbs w => some (.abs w)
  | .andAbx w => some (.abx w)
  | .andAby w => some (.aby w)
  | .andIzx z => some (.izx z)
  | .andIzy z => some (.izy z)
  | .oraImm d => some (.imm d)
  | .oraZp z => some (.zp z)
  | .oraZpx z => some (.zpx z)
  | .oraAbs w => some (.abs w)
  | .oraAbx w => some (.abx w)
  | .oraAby w => some (.aby w)
  | .oraIzx z => some (.izx z)
  | .oraIzy z => some (.izy z)
  | .eorImm d => some (.imm d)
  | .eorZp z => some (.zp z)
  | .eorZpx z => some (.zpx z)
  | .eorAbs w => some (.abs w)
  | .eorAbx w => some (.abx w)
  | .eorAby w => some (.aby w)
  | .eorIzx z => some (.izx z)
  | .eorIzy z => some (.izy z)
  | .bitZp z => some (.zp z)
  | .bitAbs w => some (.abs w)
  | .adcImm d => some (.imm d)
  | .adcZp z => some (.zp z)
  | .adcZpx z => some (.zpx z)
  | .adcAbs w => some (.abs w)
  | .adcAbx w => some (.abx w)
  | .adcAby w => some (.aby w)
  | .adcIzx z => some (.izx z)
  | .adcIzy z => some (.izy z)
  | .sbcImm d => some (.imm d)
  | .sbcZp z => some (.zp z)
  | .sbcZpx z => some (.zpx z)
  | .sbcAbs w => some (.abs w)
  | .sbcAbx w => some (.abx w)
  | .sbcAby w => some (.aby w)
  | .sbcIzx z => some (.izx z)
  | .sbcIzy z => some (.izy z)
  | .cmpImm d => some (.imm d)
  | .cmpZp z => some (.zp z)
  | .cmpZpx z => some (.zpx z)
  | .cmpAbs w => some (.abs w)
  | .cmpAbx w => some (.abx w)
  | .cmpAby w => some (.aby w)
  | .cmpIzx z => some (.izx z)
  | .cmpIzy z => some (.izy z)
  | .cpxImm d => some (.imm d)
  | .cpxZp z => some (.zp z)
  | .cpxAbs w => some (.abs w)
  | .cpyImm d => some (.imm d)
  | .cpyZp z => some (.zp z)
  | .cpyAbs w => some (.abs w)
  | .incZp z => some (.zp z)
  | .incZpx z => some (.zpx z)
  | .incAbs w => some (.abs w)
  | .incAbx w => some (.abx w)
  | .decZp z => some (.zp z)
  | .decZpx z => some (.zpx z)
  | .decAbs w => some (.abs w)
  | .decAbx w => some (.abx w)
  | .aslZp z => some (.zp z)
  | .aslZpx z => some (.zpx z)
  | .aslAbs w => some (.abs w)
  | .aslAbx w => some (.abx w)
  | .lsrZp z => some (.zp z)
  | .lsrZpx z => some (.zpx z)
  | .lsrAbs w => some (.abs w)
  | .lsrAbx w => some (.abx w)
  | .rolZp z => some (.zp z)
  | .rolZpx z => some (.zpx z)
  | .rolAbs w => some (.abs w)
  | .rolAbx w => some (.abx w)
  | .rorZp z => some (.zp z)
  | .rorZpx z => some (.zpx z)
  | .rorAbs w => some (.abs w)
  | .rorAbx w => some (.abx w)
  | .jmpAbs w => some (.abs w)
  | .jmpInd w => some (.ind w)
  | .jsr w => some (.abs w)
  | .bcc off => some (.rel off)
  | .bcs off => some (.rel off)
  | .beq off => some (.rel off)
  | .bne off => some (.rel off)
  | .bmi off => some (.rel off)
  | .bpl off => some (.rel off)
  | .bvc off => some (.rel off)
  | .bvs off => some (.rel off)
  | .tax | .tay | .txa | .tya | .tsx | .txs | .pha | .php | .pla | .plp
  | .inx | .iny | .dex | .dey | .aslAcc | .lsrAcc | .rolAcc | .rorAcc | .rts | .clc
  | .cld | .cli | .clv | .sec | .sed | .sei | .brk | .nop | .rti => none

/-- The mode tag of an addressing mode (R64). -/
def AddrMode.tag : AddrMode → ModeTag
  | .imm _ => .imm
  | .rel _ => .rel
  | .zp _ => .zp
  | .zpx _ => .zpx
  | .zpy _ => .zpy
  | .abs _ => .abs
  | .abx _ => .abx
  | .aby _ => .aby
  | .ind _ => .ind
  | .izx _ => .izx
  | .izy _ => .izy

/-- The mode tag of an instruction: ACC for the shifts on A, IMP for the other operand-less ones (R64). -/
def Instr.tag (i : Instr) : ModeTag :=
  match i.addrMode with
  | some m => m.tag
  | none => if i.mnemonic.isShift then .acc else .imp

/-- An instruction is well formed when its opcode byte has a populated entry that is well formed (R71) and says the
instruction's mnemonic, mode tag and length. Every term of `Instr` is (Laws/PerInstr.lean). -/
def Instr.wellFormed (i : Instr) : Bool :=
  match table i.opcode with
  | some d => d.wellFormed && d.op == i.mnemonic && d.mode == i.tag && d.length == i.length
  | none => false

/-! ## Cycle columns -/

/-- `charges_page_cross(opcode)` (R113): the rows with `cycle_bonus = page_cross`. -/
def chargesPageCross (opcode : Byte) : Bool :=
  match table opcode with
  | some d => d.bonus == .pageCross
  | none => false

/-- `base_cycles(opcode)` under the `CycleTable` parameter (R86, R6). -/
def baseCycles (c : Config) (opcode : Byte) : Nat :=
  match c.cycleOverrides.lookup opcode with
  | some n => n
  | none =>
    match table opcode with
    | some d => d.baseCycles
    | none => 0

/-! ## The host's table words -/

/-- The instruction the decoder reads from an instruction of `nbits` bits `w`, bit 0 the least significant bit of the
first byte; every bit above `nbits` is 0. -/
def decodeTableWord (nbits w : Nat) : Option Instr :=
  let v := w % 2 ^ nbits
  match decode [BitVec.ofNat 8 v, BitVec.ofNat 8 (v / 256), BitVec.ofNat 8 (v / 65536)] with
  | .ok (i, _) => some i
  | .error _ => none

end Sys2Proof
end

