-- ==== Sys2Proof/Machine/State.lean ====
section
/-! DEFINITION. The state of the machine (spec 10_state.md R10), its creation and reset values (R33), and the reasons a
step could stop. Plain data. -/

namespace Sys2Proof.Machine

/-- One bus transaction with its datum (spec 20_memory.md R41, R42). -/
inductive BusAccess where
  | read (addr : Word) (value : Byte)
  | write (addr : Word) (value : Byte)
deriving DecidableEq, Repr

/-- The nine items of R10, the memory behind the bus (R40), and the model's own `bus`, `busReads`, `device` and `cfg`. -/
structure State where
  /-- A, the Accumulator (R11). -/
  a        : Byte
  /-- X (R12). -/
  x        : Byte
  /-- Y (R13). -/
  y        : Byte
  /-- SP, the Stack Pointer (R15). -/
  sp       : Byte
  /-- PC, the Program Counter (R16). -/
  pc       : Word
  /-- P, the Status register: C Z I D B U V N from bit 0 to bit 7 (R17). -/
  p        : Byte
  /-- The cycle counter, unbounded (R28). -/
  cycles   : Nat
  /-- The fault latch (R29). -/
  halted   : Bool
  /-- The extra cycles of the Step in progress, or of the latest one (R30; assumption log 12). -/
  bonus    : Nat
  /-- The cells of plain RAM and ROM as (address, byte) pairs, addresses strictly rising, no byte equal to what an unlisted
  address reads as (R40, R58; assumption log 1). -/
  mem      : List Host.Cell
  /-- The model's own: the ordered bus transactions of the latest Step or Reset that acted (R49; assumption log 9). -/
  bus      : List BusAccess
  /-- The model's own: how many bus reads have been made, the clock of the free values (assumption log 3). -/
  busReads : Nat
  /-- The model's own: the state of what stands behind the bus's external windows (R41; assumption log 3). -/
  device   : Nat
  /-- The parameters of 00_scope.md R6 (assumption log 4). -/
  cfg      : Config
deriving DecidableEq, Repr

/-- The exceptions of the machine: "a model that wants a type for exceptions needs one constructor, IllegalOpcode"
(spec 60_exceptions.md R230). -/
inductive Fault where
  /-- An unpopulated opcode byte was fetched at the address (R231). No step ENDS with this value: the spec describes the
  state the exception leaves (`halted` set, PC one past the byte), so the step answers that next state. `Safety.lean`
  reports the value to the host from a halted state (assumption log 8). Safe: the machine's stop is the spec's own. -/
  | illegalOpcode (opcode : Byte) (addr : Word)
deriving DecidableEq, Repr

/-- Why an instruction has no meaning here. -/
inductive Refusal where
  /-- Raised by an arm of `exec` with no meaning yet; safe. No arm of this model raises it. -/
  | notModelled (mnemonic : String)
deriving DecidableEq, Repr

/-- Creation, power-on, of a core on a supplied bus: "Created zero-initialized" (R33, R250, R6). -/
def State.createdOn (bus : Bus) : State where
  a := 0
  x := 0
  y := 0
  sp := 0
  pc := 0
  p := 0
  cycles := 0
  halted := false
  bonus := 0
  mem := []
  bus := []
  busReads := 0
  device := 0
  cfg := Config.default bus

/-- A core created on plain RAM: R6 gives the bus no default, and this is the model's choice of one (assumption log 2). -/
def State.created : State := State.createdOn Bus.plainRam

/-- The machine right after `Reset` of a core created on plain RAM (R33, R251; assumption log 2): A, X, Y and P are 0, SP is
`P_SP_RESET`, PC is the word at 0xFFFC, which is 0 on a memory that lists nothing (assumption log 1); Reset made the two
vector reads. -/
def State.reset : State where
  a := 0
  x := 0
  y := 0
  sp := 0xFF
  pc := 0
  p := 0
  cycles := 0
  halted := false
  bonus := 0
  mem := []
  bus := [.read 0xFFFC 0, .read 0xFFFD 0]
  busReads := 2
  device := 0
  cfg := Config.default Bus.plainRam

end Sys2Proof.Machine
end

