-- ==== Sys2Proof/Machine/Flags.lean ====
section
/-! DEFINITION. The Status register, its flags and every flag computation (spec 10_state.md R17 to R27). -/

namespace Sys2Proof.Machine

/-- The eight flags of P (R17). -/
inductive Flag where
  | c | z | i | d | b | u | v | n
deriving DecidableEq, Repr

/-- The bit of P that holds a flag (R17, D2). -/
def Flag.pos : Flag → Nat
  | .c => 0
  | .z => 1
  | .i => 2
  | .d => 3
  | .b => 4
  | .u => 5
  | .v => 6
  | .n => 7

/-! ## The primitives of R27, on the byte -/

/-- `setFlag(bits)`: `P | bits`. -/
def setFlag (bits p : Byte) : Byte := p ||| bits

/-- `clearFlag(bits)`: `P & ~bits`. -/
def clearFlag (bits p : Byte) : Byte := p &&& ~~~bits

/-- `hasFlag(bits)`: `(P & bits) != 0`; the spec gives it for one-bit masks, and "any total extension is harmless" (U7;
assumption log 14). -/
def hasFlag (bits p : Byte) : Bool := p &&& bits != 0

/-- The mask of one bit position. -/
def bitMask (pos : Nat) : Byte := 1#8 <<< pos

/-- `setBit(pos, b)`: bit `pos` becomes `b`, the others keep their values. -/
def setBit (pos : Nat) (b : Bool) (p : Byte) : Byte :=
  if b then setFlag (bitMask pos) p else clearFlag (bitMask pos) p

/-- `isNegative(v)`: `v[7] == 1`. -/
def isNegative (v : Byte) : Bool := v.getLsbD 7

/-! ## Flags of the state -/

/-- `P.F` as a Boolean. -/
def getFlag (f : Flag) (s : State) : Bool := s.p.getLsbD f.pos

/-- `P.F <- b`, which is `setBit(position of F, b)` (R27). -/
def writeFlag (f : Flag) (b : Bool) (s : State) : State := { s with p := setBit f.pos b s.p }

/-- `SetZN(v)`: Zero iff `v` is 0, Negative iff bit 7 of `v` is set; no other flag (R26). -/
def setZN (v : Byte) (s : State) : State := writeFlag .n (isNegative v) (writeFlag .z (v == 0) s)

/-- The Status byte as PHP and BRK push it: Break and Break2 forced to 1 in the copy (R22, R23, R139, R217). -/
def pushedStatus (p : Byte) : Byte := setFlag 0x30 p

/-- The Status byte as PLP and RTI load it: Break cleared, Break2 set (R141, R219). -/
def restoredStatus (v : Byte) : Byte := setFlag 0x20 (v &&& 0xEF)

/-! ## Results and flags of the adder, the compare and the shifts -/

/-- The carry as a number, "P.C counted as 0 or 1" (R160). -/
def carryNat (c : Bool) : Nat := if c then 1 else 0

/-- The widened sum of R160, 0 to 511. -/
def wideSum (a m : Byte) (c : Bool) : Nat := a.toNat + m.toNat + carryNat c

/-- The result byte of the adder: the widened sum modulo 256 (R160). -/
def sumByte (a m : Byte) (c : Bool) : Byte := BitVec.ofNat 8 (wideSum a m c)

/-- Overflow of the adder: `((m ^ r) & (r ^ oldA) & 0x80) != 0` (R160). -/
def addOverflow (a m r : Byte) : Bool := ((m ^^^ r) &&& (r ^^^ a) &&& 0x80) != 0

/-- The operand SBC hands to the adder: one's complement, or two's complement under `P_SBC_TWOS` (R162). -/
def sbcOperand (twos : Bool) (m : Byte) : Byte := if twos then 0 - m else m ^^^ 0xFF

/-- ASL: the result and the bit shifted out (R177). -/
def aslByte (_ : Bool) (v : Byte) : Byte × Bool := (v <<< 1, v.getLsbD 7)

/-- LSR (R178). -/
def lsrByte (_ : Bool) (v : Byte) : Byte × Bool := (v >>> 1, v.getLsbD 0)

/-- ROL: the old carry enters bit 0 (R179). -/
def rolByte (c : Bool) (v : Byte) : Byte × Bool := ((v <<< 1) ||| BitVec.ofNat 8 (carryNat c), v.getLsbD 7)

/-- ROR: the old carry enters bit 7 (R180). -/
def rorByte (c : Bool) (v : Byte) : Byte × Bool := ((v >>> 1) ||| (BitVec.ofNat 8 (carryNat c) <<< 7), v.getLsbD 0)

end Sys2Proof.Machine
end

