-- ==== Sys2Proof/Machine/Ops.lean ====
section
/-! DEFINITION. The operations over registers, memory, bus and stack that every meaning is written over; taking the
illegal-opcode exception, entering and leaving the BRK interrupt, `Reset`, and what retires an instruction. -/

namespace Sys2Proof.Machine

/-! ## Memory: canonical lists of cells (spec 20_memory.md R40, R58) -/

/-- What a cell nothing has written reads as: DESIGN CHOICE, unsafe (assumption log 1). The spec leaves memory contents to
the host (R58, U5); its test vectors take cells that are 0 unless set. -/
def Memory.unlisted : Byte := 0

/-- The byte of one cell. -/
def Memory.read : List Host.Cell → Nat → Byte
  | [], _ => Memory.unlisted
  | c :: m, k => if c.1 = k then c.2 else Memory.read m k

/-- A memory without any entry for one address. -/
def Memory.drop (k : Nat) (m : List Host.Cell) : List Host.Cell := m.filter fun c => c.1 != k

/-- Put an entry before the first entry of a higher address. -/
def Memory.insert (k : Nat) (v : Byte) : List Host.Cell → List Host.Cell
  | [] => [(k, v)]
  | c :: m => if k < c.1 then (k, v) :: c :: m else c :: Memory.insert k v m

/-- Write one cell, keeping the canonical form: writing what an unlisted cell reads as removes the entry. -/
def Memory.write (k : Nat) (v : Byte) (m : List Host.Cell) : List Host.Cell :=
  if v = Memory.unlisted then Memory.drop k m else Memory.insert k v (Memory.drop k m)

/-- Addresses strictly rise from above a bound, lie in the address space, and no entry holds the unlisted byte. -/
def Memory.wfFrom : Nat → List Host.Cell → Bool
  | _, [] => true
  | low, c :: m => decide (low ≤ c.1) && decide (c.1 < 65536) && c.2 != Memory.unlisted && Memory.wfFrom (c.1 + 1) m

/-- The canonical form. -/
def Memory.wf (m : List Host.Cell) : Bool := Memory.wfFrom 0 m

/-! ## The host's own access to memory, between Steps (R53, R253; assumption log 11) -/

/-- The host stores one byte in a cell of plain RAM or of a ROM. -/
def hostWrite (addr : Word) (v : Byte) (s : State) : State := { s with mem := Memory.write addr.toNat v s.mem }

/-- The host stores bytes at ascending addresses, modulo 65536. -/
def hostLoad : Word → List Byte → State → State
  | _, [], s => s
  | addr, b :: rest, s => hostLoad (addr + 1) rest (hostWrite addr b s)

/-! ## The bus (R41 to R44; assumption log 2 and 3) -/

/-- Whether a window holds an address. -/
def Region.holds (r : Region) (addr : Word) : Bool := decide (r.first ≤ addr) && decide (addr ≤ r.last)

/-- What stands at an address: none for plain RAM, else the backing of the first window that holds it. -/
def backing (c : Config) (addr : Word) : Option Backing :=
  (c.bus.windows.find? fun r => Region.holds r addr).map (·.backing)

/-- Plain RAM: a read returns the byte last written or loaded (R41). -/
def isRam (c : Config) (addr : Word) : Bool := backing c addr == none

/-- An external window: reads and writes go to the bus's pair of functions. -/
def isExternal (c : Config) (addr : Word) : Bool := backing c addr == some .external

/-- `BusRead` in an external window: the byte, and the state it leaves there. -/
def externalRead (addr : Word) (s : State) : Byte × Nat :=
  (s.cfg.bus.answers.lookup (s.device, addr)).getD (Config.freeAnswer s.busReads s.device addr)

/-- `BusWrite` in an external window: the state it leaves there. -/
def externalWrite (addr : Word) (v : Byte) (s : State) : Nat :=
  (s.cfg.bus.effects.lookup (s.device, addr, v)).getD (Config.freeEffect s.busReads s.device addr v)

/-- What the bus answers to a read: the bus's own answer in an external window, else the cell. -/
def busValue (addr : Word) (s : State) : Byte :=
  if isExternal s.cfg addr then (externalRead addr s).1 else Memory.read s.mem addr.toNat

/-- `MemRead(addr, 1)`: exactly one bus transaction (R42). -/
def busRead (addr : Word) (s : State) : Byte × State :=
  (busValue addr s,
    { s with
      bus := s.bus ++ [.read addr (busValue addr s)]
      busReads := s.busReads + 1
      device := if isExternal s.cfg addr then (externalRead addr s).2 else s.device })

/-- `MemWrite(addr, 1, v)`: exactly one bus transaction (R42). It changes a cell in plain RAM, the state behind the bus in
an external window, and nothing in ROM. -/
def busWrite (addr : Word) (v : Byte) (s : State) : State :=
  { s with
    mem := if isRam s.cfg addr then Memory.write addr.toNat v s.mem else s.mem
    bus := s.bus ++ [.write addr v]
    device := if isExternal s.cfg addr then externalWrite addr v s else s.device }

/-- Two reads, the low byte first, joined: a word whose bytes are at two given addresses. -/
def busReadPair (lowAddr highAddr : Word) (s : State) : Word × State :=
  let l := busRead lowAddr s
  let h := busRead highAddr l.2
  (joinBytes h.1 l.1, h.2)

/-- `MemRead(addr, 2)`: little-endian, the high byte at `addr + 1` modulo 65536 (R43). -/
def busReadWord (addr : Word) (s : State) : Word × State := busReadPair addr (addr + 1) s

/-- `MemWrite(addr, 2, w)`: low byte, then high byte (R44). Part of the bus contract; no instruction uses it. -/
def busWriteWord (addr : Word) (w : Word) (s : State) : State := busWrite (addr + 1) (hi w) (busWrite addr (lo w) s)

/-! ## Registers by name (R8) -/

/-- The four 8-bit registers `x[r]`. -/
inductive Reg where
  | a | x | y | sp
deriving DecidableEq, Repr

/-- `x[r]`. -/
def readReg (r : Reg) (s : State) : Byte :=
  match r with
  | .a => s.a
  | .x => s.x
  | .y => s.y
  | .sp => s.sp

/-- `x[r] <- v`. -/
def writeReg (r : Reg) (v : Byte) (s : State) : State :=
  match r with
  | .a => { s with a := v }
  | .x => { s with x := v }
  | .y => { s with y := v }
  | .sp => { s with sp := v }

/-- `PC <- target`. -/
def writePc (target : Word) (s : State) : State := { s with pc := target }

/-- `bonus <- bonus + k`. -/
def addBonus (k : Nat) (s : State) : State := { s with bonus := s.bonus + k }

/-! ## The stack (R51, R136, R137) -/

/-- The address of the slot SP names: `(P_STACK_BASE + zext_16(SP)) mod 65536` (R51). -/
def stackAddr (s : State) : Word := s.cfg.stackBase + zext s.sp

/-- `Push8(v)` (R136). -/
def push8 (v : Byte) (s : State) : State :=
  let t := busWrite (stackAddr s) v s
  { t with sp := t.sp - 1 }

/-- `Pull8()` (R137). -/
def pull8 (s : State) : Byte × State :=
  let t := { s with sp := s.sp + 1 }
  busRead (stackAddr t) t

/-- Push a word, high byte then low byte, as JSR and BRK do (R191, R217). -/
def pushWord (w : Word) (s : State) : State := push8 (lo w) (push8 (hi w) s)

/-- Pull a word, low byte then high byte, as RTS and RTI do (R192, R219). -/
def pullWord (s : State) : Word × State :=
  let l := pull8 s
  let h := pull8 l.2
  (joinBytes h.1 l.1, h.2)

/-! ## Exceptions and interrupts -/

/-- `raise IllegalOpcode(opcode, opaddr)` after FETCH (spec 60_exceptions.md R231): `halted <- 1`; PC stays one past the
opcode, where FETCH left it; nothing else changes. -/
def takeIllegalOpcode (s : State) : State := { s with halted := true }

/-- BRK's entry through the vector at 0xFFFE (R217, R236), with PC one past the opcode: the address two past the opcode and
then the Status byte with Break and Break2 forced to 1 are pushed, I is set, PC is the vector's word. -/
def enterInterrupt (s : State) : State :=
  let saved := push8 (pushedStatus s.p) (pushWord (s.pc + 1) s)
  let vector := busReadWord 0xFFFE (writeFlag .i true saved)
  writePc vector.1 vector.2

/-- RTI's return (R219, R239): Status, then PC low, then PC high. -/
def returnFromInterrupt (s : State) : State :=
  let v := pull8 s
  let w := pullWord { v.2 with p := restoredStatus v.1 }
  writePc w.1 w.2

/-- `Reset` (spec 70_reset_and_hazards.md R251): the registers, then the two vector reads; `cycles` and memory are kept. -/
def hostReset (s : State) : State :=
  let t := { s with a := 0, x := 0, y := 0, sp := s.cfg.spReset, p := 0, halted := false, bonus := 0, bus := [] }
  let v := busReadWord 0xFFFC t
  writePc v.1 v.2

/-! ## Retiring an instruction (spec 40_execution_core.md R86, R87) -/

/-- ACCOUNT: `cycles <- cycles + base_cycles + bonus` (R86). -/
def account (i : Instr) (s : State) : State :=
  { s with cycles := s.cycles + baseCycles s.cfg i.opcode + s.bonus }

/-- ADVANCE: `PC <- (PC + length - 1) mod 65536` (R87). -/
def advance (i : Instr) (s : State) : State := { s with pc := s.pc + BitVec.ofNat 16 (i.length - 1) }

/-- EXECUTE, ACCOUNT, ADVANCE for an operation that does not load PC. The operation gets the opcode byte, which the
resolver asks for the page-cross charge (R113). -/
def retire (i : Instr) (op : Byte → State → State) (s : State) : Host.Outcome State Fault Refusal :=
  .next (advance i (account i (op i.opcode s)))

/-- EXECUTE and ACCOUNT for an operation that loads PC: no length advance is added (R87). -/
def retireJump (i : Instr) (op : Byte → State → State) (s : State) : Host.Outcome State Fault Refusal :=
  .next (account i (op i.opcode s))

end Sys2Proof.Machine
end

