-- ==== Sys2Proof/Machine/Operands.lean ====
section
/-! DEFINITION. The addressing-mode resolver and the operand reads (spec 41_addressing_modes.md R100 to R116). The operand
bytes of the instruction were read by the fetch, in the order of R93, and stand in the mode (assumption log 6); PC is one
past the opcode throughout (R85). -/

namespace Sys2Proof.Machine

/-- `hi(base) != hi(ea)`: an index addition that changed the page (R113). -/
def pageCrossed (base target : Word) : Bool := hi base != hi target

/-- Add an unsigned index to a base address modulo 65536, charging the page-cross bonus where the opcode does (R106, R107,
R110, R113). -/
def indexed (opcode : Byte) (base : Word) (index : Byte) (s : State) : Word × State :=
  let target := base + zext index
  (target, if chargesPageCross opcode && pageCrossed base target then addBonus 1 s else s)

/-- The address of the high byte of a zero-page pointer (R114, D8). -/
def zpPtrHigh (c : Config) (zp : Byte) : Word := if c.zpPtrWrap then zext (zp + 1) else zext zp + 1

/-- `ReadPtrZP(zp)` (R114): low byte first. -/
def readPtrZp (zp : Byte) (s : State) : Word × State := busReadPair (zext zp) (zpPtrHigh s.cfg zp) s

/-- The address of the high byte of a JMP Indirect pointer (R108, D7). -/
def indirectHigh (c : Config) (ptr : Word) : Word := if c.jmpIndWrap then joinBytes (hi ptr) (lo ptr + 1) else ptr + 1

/-- `EA(mode)` (R100 to R111): the effective address, with the pointer reads and the bonus it makes. -/
def ea (opcode : Byte) (m : AddrMode) (s : State) : Word × State :=
  match m with
  | .imm _ => (s.pc, s)
  | .rel _ => (s.pc, s)
  | .zp z => (zext z, s)
  | .zpx z => (zext (z + s.x), s)
  | .zpy z => (zext (z + s.y), s)
  | .abs w => (w, s)
  | .abx w => indexed opcode w s.x s
  | .aby w => indexed opcode w s.y s
  | .ind w => busReadPair w (indirectHigh s.cfg w) s
  | .izx z => readPtrZp (z + s.x) s
  | .izy z =>
    let base := readPtrZp z s
    indexed opcode base.1 s.y base.2

/-- `Operand(mode) = MemRead(EA(mode), 1)` (R115). For IMM and REL the byte at `EA = PC` is the operand byte itself, whose
one read the fetch has made (R93; assumption log 6). -/
def operand (opcode : Byte) (m : AddrMode) (s : State) : Byte × State :=
  match m with
  | .imm d => (d, s)
  | .rel off => (off, s)
  | m =>
    let e := ea opcode m s
    busRead e.1 e.2

end Sys2Proof.Machine
end

