-- ==== Sys2Proof/Machine/Arithmetic.lean ====
section
/-! DEFINITION. ADC, SBC and the compares (spec 45_arithmetic_compare.md R160 to R167). One definition per row of the opcode table, each one
line over the shared operations above it. -/

namespace Sys2Proof.Machine

/-- `AddWithCarry(m)`: A, C, V, Z, N; the Decimal flag is not consulted (R160). -/
def addWithCarry (m : Byte) (s : State) : State :=
  let c := getFlag .c s
  let r := sumByte s.a m c
  let t := writeFlag .v (addOverflow s.a m r) (writeFlag .c (decide (255 < wideSum s.a m c)) s)
  setZN r (writeReg .a r t)

/-- ADC (R161). -/
def adc (m : AddrMode) (opcode : Byte) (s : State) : State :=
  let o := operand opcode m s
  addWithCarry o.1 o.2

/-- SBC: the adder applied to the transformed operand (R162). -/
def sbc (m : AddrMode) (opcode : Byte) (s : State) : State :=
  let o := operand opcode m s
  addWithCarry (sbcOperand o.2.cfg.sbcTwos o.1) o.2

/-- `Compare(r, m)`: C iff `m <= r` unsigned; Z and N from the wrapped difference; the register is kept (R163 to R166). -/
def compareReg (r : Reg) (m : AddrMode) (opcode : Byte) (s : State) : State :=
  let o := operand opcode m s
  setZN (readReg r o.2 - o.1) (writeFlag .c (decide (o.1 ≤ readReg r o.2)) o.2)

/-! ## The meanings -/

/-- ADC IMM, opcode 0x69 (R161). -/
def execAdcImm (d : Byte) (s : State) : Host.Outcome State Fault Refusal :=
  retire (.adcImm d) (adc (.imm d)) s

/-- ADC ZP, opcode 0x65 (R161). -/
def execAdcZp (z : Byte) (s : State) : Host.Outcome State Fault Refusal :=
  retire (.adcZp z) (adc (.zp z)) s

/-- ADC ZPX, opcode 0x75 (R161). -/
def execAdcZpx (z : Byte) (s : State) : Host.Outcome State Fault Refusal :=
  retire (.adcZpx z) (adc (.zpx z)) s

/-- ADC ABS, opcode 0x6D (R161). -/
def execAdcAbs (w : Word) (s : State) : Host.Outcome State Fault Refusal :=
  retire (.adcAbs w) (adc (.abs w)) s

/-- ADC ABX, opcode 0x7D (R161). -/
def execAdcAbx (w : Word) (s : State) : Host.Outcome State Fault Refusal :=
  retire (.adcAbx w) (adc (.abx w)) s

/-- ADC ABY, opcode 0x79 (R161). -/
def execAdcAby (w : Word) (s : State) : Host.Outcome State Fault Refusal :=
  retire (.adcAby w) (adc (.aby w)) s

/-- ADC IZX, opcode 0x61 (R161). -/
def execAdcIzx (z : Byte) (s : State) : Host.Outcome State Fault Refusal :=
  retire (.adcIzx z) (adc (.izx z)) s

/-- ADC IZY, opcode 0x71 (R161). -/
def execAdcIzy (z : Byte) (s : State) : Host.Outcome State Fault Refusal :=
  retire (.adcIzy z) (adc (.izy z)) s

/-- SBC IMM, opcode 0xE9 (R162). -/
def execSbcImm (d : Byte) (s : State) : Host.Outcome State Fault Refusal :=
  retire (.sbcImm d) (sbc (.imm d)) s

/-- SBC ZP, opcode 0xE5 (R162). -/
def execSbcZp (z : Byte) (s : State) : Host.Outcome State Fault Refusal :=
  retire (.sbcZp z) (sbc (.zp z)) s

/-- SBC ZPX, opcode 0xF5 (R162). -/
def execSbcZpx (z : Byte) (s : State) : Host.Outcome State Fault Refusal :=
  retire (.sbcZpx z) (sbc (.zpx z)) s

/-- SBC ABS, opcode 0xED (R162). -/
def execSbcAbs (w : Word) (s : State) : Host.Outcome State Fault Refusal :=
  retire (.sbcAbs w) (sbc (.abs w)) s

/-- SBC ABX, opcode 0xFD (R162). -/
def execSbcAbx (w : Word) (s : State) : Host.Outcome State Fault Refusal :=
  retire (.sbcAbx w) (sbc (.abx w)) s

/-- SBC ABY, opcode 0xF9 (R162). -/
def execSbcAby (w : Word) (s : State) : Host.Outcome State Fault Refusal :=
  retire (.sbcAby w) (sbc (.aby w)) s

/-- SBC IZX, opcode 0xE1 (R162). -/
def execSbcIzx (z : Byte) (s : State) : Host.Outcome State Fault Refusal :=
  retire (.sbcIzx z) (sbc (.izx z)) s

/-- SBC IZY, opcode 0xF1 (R162). -/
def execSbcIzy (z : Byte) (s : State) : Host.Outcome State Fault Refusal :=
  retire (.sbcIzy z) (sbc (.izy z)) s

/-- CMP IMM, opcode 0xC9 (R164). -/
def execCmpImm (d : Byte) (s : State) : Host.Outcome State Fault Refusal :=
  retire (.cmpImm d) (compareReg .a (.imm d)) s

/-- CMP ZP, opcode 0xC5 (R164). -/
def execCmpZp (z : Byte) (s : State) : Host.Outcome State Fault Refusal :=
  retire (.cmpZp z) (compareReg .a (.zp z)) s

/-- CMP ZPX, opcode 0xD5 (R164). -/
def execCmpZpx (z : Byte) (s : State) : Host.Outcome State Fault Refusal :=
  retire (.cmpZpx z) (compareReg .a (.zpx z)) s

/-- CMP ABS, opcode 0xCD (R164). -/
def execCmpAbs (w : Word) (s : State) : Host.Outcome State Fault Refusal :=
  retire (.cmpAbs w) (compareReg .a (.abs w)) s

/-- CMP ABX, opcode 0xDD (R164). -/
def execCmpAbx (w : Word) (s : State) : Host.Outcome State Fault Refusal :=
  retire (.cmpAbx w) (compareReg .a (.abx w)) s

/-- CMP ABY, opcode 0xD9 (R164). -/
def execCmpAby (w : Word) (s : State) : Host.Outcome State Fault Refusal :=
  retire (.cmpAby w) (compareReg .a (.aby w)) s

/-- CMP IZX, opcode 0xC1 (R164). -/
def execCmpIzx (z : Byte) (s : State) : Host.Outcome State Fault Refusal :=
  retire (.cmpIzx z) (compareReg .a (.izx z)) s

/-- CMP IZY, opcode 0xD1 (R164). -/
def execCmpIzy (z : Byte) (s : State) : Host.Outcome State Fault Refusal :=
  retire (.cmpIzy z) (compareReg .a (.izy z)) s

/-- CPX IMM, opcode 0xE0 (R165). -/
def execCpxImm (d : Byte) (s : State) : Host.Outcome State Fault Refusal :=
  retire (.cpxImm d) (compareReg .x (.imm d)) s

/-- CPX ZP, opcode 0xE4 (R165). -/
def execCpxZp (z : Byte) (s : State) : Host.Outcome State Fault Refusal :=
  retire (.cpxZp z) (compareReg .x (.zp z)) s

/-- CPX ABS, opcode 0xEC (R165). -/
def execCpxAbs (w : Word) (s : State) : Host.Outcome State Fault Refusal :=
  retire (.cpxAbs w) (compareReg .x (.abs w)) s

/-- CPY IMM, opcode 0xC0 (R166). -/
def execCpyImm (d : Byte) (s : State) : Host.Outcome State Fault Refusal :=
  retire (.cpyImm d) (compareReg .y (.imm d)) s

/-- CPY ZP, opcode 0xC4 (R166). -/
def execCpyZp (z : Byte) (s : State) : Host.Outcome State Fault Refusal :=
  retire (.cpyZp z) (compareReg .y (.zp z)) s

/-- CPY ABS, opcode 0xCC (R166). -/
def execCpyAbs (w : Word) (s : State) : Host.Outcome State Fault Refusal :=
  retire (.cpyAbs w) (compareReg .y (.abs w)) s

end Sys2Proof.Machine
end

