-- ==== Sys2Proof/Machine/FlagSystem.lean ====
section
/-! DEFINITION. Flag toggles, BRK, NOP and RTI (spec 48_flag_system.md R210 to R219). One definition per row of the opcode table, each one
line over the shared operations above it. -/

namespace Sys2Proof.Machine

/-- CLC, CLD, CLI, CLV, SEC, SED, SEI: "set or clear exactly one named flag; no other state changes" (R210 to R216). -/
def toggle (f : Flag) (value : Bool) (_ : Byte) (s : State) : State := writeFlag f value s

/-! ## The meanings -/

/-- CLC IMP, opcode 0x18 (R210). -/
def execClc (s : State) : Host.Outcome State Fault Refusal :=
  retire .clc (toggle .c false) s

/-- CLD IMP, opcode 0xD8 (R211). -/
def execCld (s : State) : Host.Outcome State Fault Refusal :=
  retire .cld (toggle .d false) s

/-- CLI IMP, opcode 0x58 (R212). -/
def execCli (s : State) : Host.Outcome State Fault Refusal :=
  retire .cli (toggle .i false) s

/-- CLV IMP, opcode 0xB8 (R213). -/
def execClv (s : State) : Host.Outcome State Fault Refusal :=
  retire .clv (toggle .v false) s

/-- SEC IMP, opcode 0x38 (R214). -/
def execSec (s : State) : Host.Outcome State Fault Refusal :=
  retire .sec (toggle .c true) s

/-- SED IMP, opcode 0xF8 (R215). -/
def execSed (s : State) : Host.Outcome State Fault Refusal :=
  retire .sed (toggle .d true) s

/-- SEI IMP, opcode 0x78 (R216). -/
def execSei (s : State) : Host.Outcome State Fault Refusal :=
  retire .sei (toggle .i true) s

/-- BRK IMP, opcode 0x00 (R217). -/
def execBrk (s : State) : Host.Outcome State Fault Refusal :=
  retireJump .brk (fun _ t => enterInterrupt t) s

/-- NOP IMP, opcode 0xEA (R218). -/
def execNop (s : State) : Host.Outcome State Fault Refusal :=
  retire .nop (fun _ t => t) s

/-- RTI IMP, opcode 0x40 (R219). -/
def execRti (s : State) : Host.Outcome State Fault Refusal :=
  retireJump .rti (fun _ t => returnFromInterrupt t) s

end Sys2Proof.Machine
end

