-- ==== Sys2Proof/Machine/IncShift.lean ====
section
/-! DEFINITION. Increments, decrements, shifts and rotates (spec 46_incdec_shift_rotate.md R170 to R180). One definition per row of the opcode table, each one
line over the shared operations above it. -/

namespace Sys2Proof.Machine

/-- `(v + 1) mod 256` (R170, R172). -/
def incByte (v : Byte) : Byte := v + 1

/-- `(v - 1) mod 256` (R171, R174). -/
def decByte (v : Byte) : Byte := v - 1

/-- INC, DEC: the address is resolved once, one read then one write of it, `SetZN` of the result (R170, R171). -/
def stepMem (f : Byte → Byte) (m : AddrMode) (opcode : Byte) (s : State) : State :=
  let e := ea opcode m s
  let v := busRead e.1 e.2
  setZN (f v.1) (busWrite e.1 (f v.1) v.2)

/-- INX, INY, DEX, DEY (R172 to R175). -/
def stepReg (f : Byte → Byte) (r : Reg) (_ : Byte) (s : State) : State :=
  setZN (f (readReg r s)) (writeReg r (f (readReg r s)) s)

/-- `ShiftOp(ACC, f)` with the carry: no bus access (R176). `f` maps the old carry and the old value to the result and the
bit shifted out. -/
def shiftA (f : Bool → Byte → Byte × Bool) (_ : Byte) (s : State) : State :=
  let r := f (getFlag .c s) s.a
  setZN r.1 (writeFlag .c r.2 (writeReg .a r.1 s))

/-- `ShiftOp(mode, f)` on a memory operand: one read, one write of the same address (R176). -/
def shiftMem (f : Bool → Byte → Byte × Bool) (m : AddrMode) (opcode : Byte) (s : State) : State :=
  let e := ea opcode m s
  let v := busRead e.1 e.2
  let r := f (getFlag .c v.2) v.1
  setZN r.1 (writeFlag .c r.2 (busWrite e.1 r.1 v.2))

/-! ## The meanings -/

/-- INC ZP, opcode 0xE6 (R170). -/
def execIncZp (z : Byte) (s : State) : Host.Outcome State Fault Refusal :=
  retire (.incZp z) (stepMem incByte (.zp z)) s

/-- INC ZPX, opcode 0xF6 (R170). -/
def execIncZpx (z : Byte) (s : State) : Host.Outcome State Fault Refusal :=
  retire (.incZpx z) (stepMem incByte (.zpx z)) s

/-- INC ABS, opcode 0xEE (R170). -/
def execIncAbs (w : Word) (s : State) : Host.Outcome State Fault Refusal :=
  retire (.incAbs w) (stepMem incByte (.abs w)) s

/-- INC ABX, opcode 0xFE (R170). -/
def execIncAbx (w : Word) (s : State) : Host.Outcome State Fault Refusal :=
  retire (.incAbx w) (stepMem incByte (.abx w)) s

/-- DEC ZP, opcode 0xC6 (R171). -/
def execDecZp (z : Byte) (s : State) : Host.Outcome State Fault Refusal :=
  retire (.decZp z) (stepMem decByte (.zp z)) s

/-- DEC ZPX, opcode 0xD6 (R171). -/
def execDecZpx (z : Byte) (s : State) : Host.Outcome State Fault Refusal :=
  retire (.decZpx z) (stepMem decByte (.zpx z)) s

/-- DEC ABS, opcode 0xCE (R171). -/
def execDecAbs (w : Word) (s : State) : Host.Outcome State Fault Refusal :=
  retire (.decAbs w) (stepMem decByte (.abs w)) s

/-- DEC ABX, opcode 0xDE (R171). -/
def execDecAbx (w : Word) (s : State) : Host.Outcome State Fault Refusal :=
  retire (.decAbx w) (stepMem decByte (.abx w)) s

/-- INX IMP, opcode 0xE8 (R172). -/
def execInx (s : State) : Host.Outcome State Fault Refusal :=
  retire .inx (stepReg incByte .x) s

/-- INY IMP, opcode 0xC8 (R173). -/
def execIny (s : State) : Host.Outcome State Fault Refusal :=
  retire .iny (stepReg incByte .y) s

/-- DEX IMP, opcode 0xCA (R174). -/
def execDex (s : State) : Host.Outcome State Fault Refusal :=
  retire .dex (stepReg decByte .x) s

/-- DEY IMP, opcode 0x88 (R175). -/
def execDey (s : State) : Host.Outcome State Fault Refusal :=
  retire .dey (stepReg decByte .y) s

/-- ASL ACC, opcode 0x0A (R177). -/
def execAslAcc (s : State) : Host.Outcome State Fault Refusal :=
  retire .aslAcc (shiftA aslByte) s

/-- ASL ZP, opcode 0x06 (R177). -/
def execAslZp (z : Byte) (s : State) : Host.Outcome State Fault Refusal :=
  retire (.aslZp z) (shiftMem aslByte (.zp z)) s

/-- ASL ZPX, opcode 0x16 (R177). -/
def execAslZpx (z : Byte) (s : State) : Host.Outcome State Fault Refusal :=
  retire (.aslZpx z) (shiftMem aslByte (.zpx z)) s

/-- ASL ABS, opcode 0x0E (R177). -/
def execAslAbs (w : Word) (s : State) : Host.Outcome State Fault Refusal :=
  retire (.aslAbs w) (shiftMem aslByte (.abs w)) s

/-- ASL ABX, opcode 0x1E (R177). -/
def execAslAbx (w : Word) (s : State) : Host.Outcome State Fault Refusal :=
  retire (.aslAbx w) (shiftMem aslByte (.abx w)) s

/-- LSR ACC, opcode 0x4A (R178). -/
def execLsrAcc (s : State) : Host.Outcome State Fault Refusal :=
  retire .lsrAcc (shiftA lsrByte) s

/-- LSR ZP, opcode 0x46 (R178). -/
def execLsrZp (z : Byte) (s : State) : Host.Outcome State Fault Refusal :=
  retire (.lsrZp z) (shiftMem lsrByte (.zp z)) s

/-- LSR ZPX, opcode 0x56 (R178). -/
def execLsrZpx (z : Byte) (s : State) : Host.Outcome State Fault Refusal :=
  retire (.lsrZpx z) (shiftMem lsrByte (.zpx z)) s

/-- LSR ABS, opcode 0x4E (R178). -/
def execLsrAbs (w : Word) (s : State) : Host.Outcome State Fault Refusal :=
  retire (.lsrAbs w) (shiftMem lsrByte (.abs w)) s

/-- LSR ABX, opcode 0x5E (R178). -/
def execLsrAbx (w : Word) (s : State) : Host.Outcome State Fault Refusal :=
  retire (.lsrAbx w) (shiftMem lsrByte (.abx w)) s

/-- ROL ACC, opcode 0x2A (R179). -/
def execRolAcc (s : State) : Host.Outcome State Fault Refusal :=
  retire .rolAcc (shiftA rolByte) s

/-- ROL ZP, opcode 0x26 (R179). -/
def execRolZp (z : Byte) (s : State) : Host.Outcome State Fault Refusal :=
  retire (.rolZp z) (shiftMem rolByte (.zp z)) s

/-- ROL ZPX, opcode 0x36 (R179). -/
def execRolZpx (z : Byte) (s : State) : Host.Outcome State Fault Refusal :=
  retire (.rolZpx z) (shiftMem rolByte (.zpx z)) s

/-- ROL ABS, opcode 0x2E (R179). -/
def execRolAbs (w : Word) (s : State) : Host.Outcome State Fault Refusal :=
  retire (.rolAbs w) (shiftMem rolByte (.abs w)) s

/-- ROL ABX, opcode 0x3E (R179). -/
def execRolAbx (w : Word) (s : State) : Host.Outcome State Fault Refusal :=
  retire (.rolAbx w) (shiftMem rolByte (.abx w)) s

/-- ROR ACC, opcode 0x6A (R180). -/
def execRorAcc (s : State) : Host.Outcome State Fault Refusal :=
  retire .rorAcc (shiftA rorByte) s

/-- ROR ZP, opcode 0x66 (R180). -/
def execRorZp (z : Byte) (s : State) : Host.Outcome State Fault Refusal :=
  retire (.rorZp z) (shiftMem rorByte (.zp z)) s

/-- ROR ZPX, opcode 0x76 (R180). -/
def execRorZpx (z : Byte) (s : State) : Host.Outcome State Fault Refusal :=
  retire (.rorZpx z) (shiftMem rorByte (.zpx z)) s

/-- ROR ABS, opcode 0x6E (R180). -/
def execRorAbs (w : Word) (s : State) : Host.Outcome State Fault Refusal :=
  retire (.rorAbs w) (shiftMem rorByte (.abs w)) s

/-- ROR ABX, opcode 0x7E (R180). -/
def execRorAbx (w : Word) (s : State) : Host.Outcome State Fault Refusal :=
  retire (.rorAbx w) (shiftMem rorByte (.abx w)) s

end Sys2Proof.Machine
end

