-- ==== Sys2Proof/Machine/JumpBranch.lean ====
section
/-! DEFINITION. Jumps, calls, returns and branches (spec 47_jump_call_branch.md R190 to R201); PC is one past the opcode on entry (R85). One definition per row of the opcode table, each one
line over the shared operations above it. -/

namespace Sys2Proof.Machine

/-- JMP: `PC <- EA(mode)` (R190). -/
def jump (m : AddrMode) (opcode : Byte) (s : State) : State :=
  let e := ea opcode m s
  writePc e.1 e.2

/-- JSR: the target is resolved first, then the address of the JSR's last byte is pushed high byte first (R191, D29). -/
def call (m : AddrMode) (opcode : Byte) (s : State) : State :=
  let e := ea opcode m s
  writePc e.1 (pushWord (e.2.pc + 1) e.2)

/-- RTS: `PC <- ({h, l} + 1) mod 65536` (R192). -/
def returnFromCall (_ : Byte) (s : State) : State :=
  let w := pullWord s
  writePc (w.1 + 1) w.2

/-- `Branch(cond)` where the condition is that a flag has a value (R193 to R201): taken, PC is the next instruction's
address plus the signed offset, with one bonus cycle and one more when that changes the page; not taken, the next
instruction's address. -/
def branch (f : Flag) (value : Bool) (m : AddrMode) (opcode : Byte) (s : State) : State :=
  let o := operand opcode m s
  let next := o.2.pc + 1
  let target := next + sext o.1
  if getFlag f o.2 == value then writePc target (addBonus (if pageCrossed next target then 2 else 1) o.2)
  else writePc next o.2

/-! ## The meanings -/

/-- JMP ABS, opcode 0x4C (R190). -/
def execJmpAbs (w : Word) (s : State) : Host.Outcome State Fault Refusal :=
  retireJump (.jmpAbs w) (jump (.abs w)) s

/-- JMP IND, opcode 0x6C (R190). -/
def execJmpInd (w : Word) (s : State) : Host.Outcome State Fault Refusal :=
  retireJump (.jmpInd w) (jump (.ind w)) s

/-- JSR ABS, opcode 0x20 (R191). -/
def execJsr (w : Word) (s : State) : Host.Outcome State Fault Refusal :=
  retireJump (.jsr w) (call (.abs w)) s

/-- RTS IMP, opcode 0x60 (R192). -/
def execRts (s : State) : Host.Outcome State Fault Refusal :=
  retireJump .rts returnFromCall s

/-- BCC REL, opcode 0x90 (R194). -/
def execBcc (off : Byte) (s : State) : Host.Outcome State Fault Refusal :=
  retireJump (.bcc off) (branch .c false (.rel off)) s

/-- BCS REL, opcode 0xB0 (R195). -/
def execBcs (off : Byte) (s : State) : Host.Outcome State Fault Refusal :=
  retireJump (.bcs off) (branch .c true (.rel off)) s

/-- BEQ REL, opcode 0xF0 (R196). -/
def execBeq (off : Byte) (s : State) : Host.Outcome State Fault Refusal :=
  retireJump (.beq off) (branch .z true (.rel off)) s

/-- BNE REL, opcode 0xD0 (R197). -/
def execBne (off : Byte) (s : State) : Host.Outcome State Fault Refusal :=
  retireJump (.bne off) (branch .z false (.rel off)) s

/-- BMI REL, opcode 0x30 (R198). -/
def execBmi (off : Byte) (s : State) : Host.Outcome State Fault Refusal :=
  retireJump (.bmi off) (branch .n true (.rel off)) s

/-- BPL REL, opcode 0x10 (R199). -/
def execBpl (off : Byte) (s : State) : Host.Outcome State Fault Refusal :=
  retireJump (.bpl off) (branch .n false (.rel off)) s

/-- BVC REL, opcode 0x50 (R200). -/
def execBvc (off : Byte) (s : State) : Host.Outcome State Fault Refusal :=
  retireJump (.bvc off) (branch .v false (.rel off)) s

/-- BVS REL, opcode 0x70 (R201). -/
def execBvs (off : Byte) (s : State) : Host.Outcome State Fault Refusal :=
  retireJump (.bvs off) (branch .v true (.rel off)) s

end Sys2Proof.Machine
end

