-- ==== Sys2Proof/Machine/LoadStore.lean ====
section
/-! DEFINITION. Loads and stores (spec 42_load_store.md R120 to R126). One definition per row of the opcode table, each one
line over the shared operations above it. -/

namespace Sys2Proof.Machine

/-- LDA, LDX, LDY: `m <- Operand(mode); r <- m; SetZN(r)` (R121, R122, R123). -/
def load (r : Reg) (m : AddrMode) (opcode : Byte) (s : State) : State :=
  let o := operand opcode m s
  setZN o.1 (writeReg r o.1 o.2)

/-- STA, STX, STY: `ea <- EA(mode); MemWrite(ea, 1, r)`; one write, no read of `ea`, no flag (R124, R125, R126). -/
def store (r : Reg) (m : AddrMode) (opcode : Byte) (s : State) : State :=
  let e := ea opcode m s
  busWrite e.1 (readReg r e.2) e.2

/-! ## The meanings -/

/-- LDA IMM, opcode 0xA9 (R121). -/
def execLdaImm (d : Byte) (s : State) : Host.Outcome State Fault Refusal :=
  retire (.ldaImm d) (load .a (.imm d)) s

/-- LDA ZP, opcode 0xA5 (R121). -/
def execLdaZp (z : Byte) (s : State) : Host.Outcome State Fault Refusal :=
  retire (.ldaZp z) (load .a (.zp z)) s

/-- LDA ZPX, opcode 0xB5 (R121). -/
def execLdaZpx (z : Byte) (s : State) : Host.Outcome State Fault Refusal :=
  retire (.ldaZpx z) (load .a (.zpx z)) s

/-- LDA ABS, opcode 0xAD (R121). -/
def execLdaAbs (w : Word) (s : State) : Host.Outcome State Fault Refusal :=
  retire (.ldaAbs w) (load .a (.abs w)) s

/-- LDA ABX, opcode 0xBD (R121). -/
def execLdaAbx (w : Word) (s : State) : Host.Outcome State Fault Refusal :=
  retire (.ldaAbx w) (load .a (.abx w)) s

/-- LDA ABY, opcode 0xB9 (R121). -/
def execLdaAby (w : Word) (s : State) : Host.Outcome State Fault Refusal :=
  retire (.ldaAby w) (load .a (.aby w)) s

/-- LDA IZX, opcode 0xA1 (R121). -/
def execLdaIzx (z : Byte) (s : State) : Host.Outcome State Fault Refusal :=
  retire (.ldaIzx z) (load .a (.izx z)) s

/-- LDA IZY, opcode 0xB1 (R121). -/
def execLdaIzy (z : Byte) (s : State) : Host.Outcome State Fault Refusal :=
  retire (.ldaIzy z) (load .a (.izy z)) s

/-- LDX IMM, opcode 0xA2 (R122). -/
def execLdxImm (d : Byte) (s : State) : Host.Outcome State Fault Refusal :=
  retire (.ldxImm d) (load .x (.imm d)) s

/-- LDX ZP, opcode 0xA6 (R122). -/
def execLdxZp (z : Byte) (s : State) : Host.Outcome State Fault Refusal :=
  retire (.ldxZp z) (load .x (.zp z)) s

/-- LDX ZPY, opcode 0xB6 (R122). -/
def execLdxZpy (z : Byte) (s : State) : Host.Outcome State Fault Refusal :=
  retire (.ldxZpy z) (load .x (.zpy z)) s

/-- LDX ABS, opcode 0xAE (R122). -/
def execLdxAbs (w : Word) (s : State) : Host.Outcome State Fault Refusal :=
  retire (.ldxAbs w) (load .x (.abs w)) s

/-- LDX ABY, opcode 0xBE (R122). -/
def execLdxAby (w : Word) (s : State) : Host.Outcome State Fault Refusal :=
  retire (.ldxAby w) (load .x (.aby w)) s

/-- LDY IMM, opcode 0xA0 (R123). -/
def execLdyImm (d : Byte) (s : State) : Host.Outcome State Fault Refusal :=
  retire (.ldyImm d) (load .y (.imm d)) s

/-- LDY ZP, opcode 0xA4 (R123). -/
def execLdyZp (z : Byte) (s : State) : Host.Outcome State Fault Refusal :=
  retire (.ldyZp z) (load .y (.zp z)) s

/-- LDY ZPX, opcode 0xB4 (R123). -/
def execLdyZpx (z : Byte) (s : State) : Host.Outcome State Fault Refusal :=
  retire (.ldyZpx z) (load .y (.zpx z)) s

/-- LDY ABS, opcode 0xAC (R123). -/
def execLdyAbs (w : Word) (s : State) : Host.Outcome State Fault Refusal :=
  retire (.ldyAbs w) (load .y (.abs w)) s

/-- LDY ABX, opcode 0xBC (R123). -/
def execLdyAbx (w : Word) (s : State) : Host.Outcome State Fault Refusal :=
  retire (.ldyAbx w) (load .y (.abx w)) s

/-- STA ZP, opcode 0x85 (R124). -/
def execStaZp (z : Byte) (s : State) : Host.Outcome State Fault Refusal :=
  retire (.staZp z) (store .a (.zp z)) s

/-- STA ZPX, opcode 0x95 (R124). -/
def execStaZpx (z : Byte) (s : State) : Host.Outcome State Fault Refusal :=
  retire (.staZpx z) (store .a (.zpx z)) s

/-- STA ABS, opcode 0x8D (R124). -/
def execStaAbs (w : Word) (s : State) : Host.Outcome State Fault Refusal :=
  retire (.staAbs w) (store .a (.abs w)) s

/-- STA ABX, opcode 0x9D (R124). -/
def execStaAbx (w : Word) (s : State) : Host.Outcome State Fault Refusal :=
  retire (.staAbx w) (store .a (.abx w)) s

/-- STA ABY, opcode 0x99 (R124). -/
def execStaAby (w : Word) (s : State) : Host.Outcome State Fault Refusal :=
  retire (.staAby w) (store .a (.aby w)) s

/-- STA IZX, opcode 0x81 (R124). -/
def execStaIzx (z : Byte) (s : State) : Host.Outcome State Fault Refusal :=
  retire (.staIzx z) (store .a (.izx z)) s

/-- STA IZY, opcode 0x91 (R124). -/
def execStaIzy (z : Byte) (s : State) : Host.Outcome State Fault Refusal :=
  retire (.staIzy z) (store .a (.izy z)) s

/-- STX ZP, opcode 0x86 (R125). -/
def execStxZp (z : Byte) (s : State) : Host.Outcome State Fault Refusal :=
  retire (.stxZp z) (store .x (.zp z)) s

/-- STX ZPY, opcode 0x96 (R125). -/
def execStxZpy (z : Byte) (s : State) : Host.Outcome State Fault Refusal :=
  retire (.stxZpy z) (store .x (.zpy z)) s

/-- STX ABS, opcode 0x8E (R125). -/
def execStxAbs (w : Word) (s : State) : Host.Outcome State Fault Refusal :=
  retire (.stxAbs w) (store .x (.abs w)) s

/-- STY ZP, opcode 0x84 (R126). -/
def execStyZp (z : Byte) (s : State) : Host.Outcome State Fault Refusal :=
  retire (.styZp z) (store .y (.zp z)) s

/-- STY ZPX, opcode 0x94 (R126). -/
def execStyZpx (z : Byte) (s : State) : Host.Outcome State Fault Refusal :=
  retire (.styZpx z) (store .y (.zpx z)) s

/-- STY ABS, opcode 0x8C (R126). -/
def execStyAbs (w : Word) (s : State) : Host.Outcome State Fault Refusal :=
  retire (.styAbs w) (store .y (.abs w)) s

end Sys2Proof.Machine
end

