-- ==== Sys2Proof/Machine/Logical.lean ====
section
/-! DEFINITION. Logical instructions and BIT (spec 44_logical_bit.md R150 to R153). One definition per row of the opcode table, each one
line over the shared operations above it. -/

namespace Sys2Proof.Machine

/-- AND, ORA, EOR: `m <- Operand(mode); A <- A op m; SetZN(A)` (R150, R151, R152). -/
def logical (f : Byte → Byte → Byte) (m : AddrMode) (opcode : Byte) (s : State) : State :=
  let o := operand opcode m s
  setZN (f o.2.a o.1) (writeReg .a (f o.2.a o.1) o.2)

/-- BIT: Z from `A & m`, N and V from bits 7 and 6 of `m`; A is not modified (R153). -/
def bitTest (m : AddrMode) (opcode : Byte) (s : State) : State :=
  let o := operand opcode m s
  writeFlag .v (o.1.getLsbD 6) (writeFlag .n (o.1.getLsbD 7) (writeFlag .z (o.2.a &&& o.1 == 0) o.2))

/-! ## The meanings -/

/-- AND IMM, opcode 0x29 (R150). -/
def execAndImm (d : Byte) (s : State) : Host.Outcome State Fault Refusal :=
  retire (.andImm d) (logical (· &&& ·) (.imm d)) s

/-- AND ZP, opcode 0x25 (R150). -/
def execAndZp (z : Byte) (s : State) : Host.Outcome State Fault Refusal :=
  retire (.andZp z) (logical (· &&& ·) (.zp z)) s

/-- AND ZPX, opcode 0x35 (R150). -/
def execAndZpx (z : Byte) (s : State) : Host.Outcome State Fault Refusal :=
  retire (.andZpx z) (logical (· &&& ·) (.zpx z)) s

/-- AND ABS, opcode 0x2D (R150). -/
def execAndAbs (w : Word) (s : State) : Host.Outcome State Fault Refusal :=
  retire (.andAbs w) (logical (· &&& ·) (.abs w)) s

/-- AND ABX, opcode 0x3D (R150). -/
def execAndAbx (w : Word) (s : State) : Host.Outcome State Fault Refusal :=
  retire (.andAbx w) (logical (· &&& ·) (.abx w)) s

/-- AND ABY, opcode 0x39 (R150). -/
def execAndAby (w : Word) (s : State) : Host.Outcome State Fault Refusal :=
  retire (.andAby w) (logical (· &&& ·) (.aby w)) s

/-- AND IZX, opcode 0x21 (R150). -/
def execAndIzx (z : Byte) (s : State) : Host.Outcome State Fault Refusal :=
  retire (.andIzx z) (logical (· &&& ·) (.izx z)) s

/-- AND IZY, opcode 0x31 (R150). -/
def execAndIzy (z : Byte) (s : State) : Host.Outcome State Fault Refusal :=
  retire (.andIzy z) (logical (· &&& ·) (.izy z)) s

/-- ORA IMM, opcode 0x09 (R151). -/
def execOraImm (d : Byte) (s : State) : Host.Outcome State Fault Refusal :=
  retire (.oraImm d) (logical (· ||| ·) (.imm d)) s

/-- ORA ZP, opcode 0x05 (R151). -/
def execOraZp (z : Byte) (s : State) : Host.Outcome State Fault Refusal :=
  retire (.oraZp z) (logical (· ||| ·) (.zp z)) s

/-- ORA ZPX, opcode 0x15 (R151). -/
def execOraZpx (z : Byte) (s : State) : Host.Outcome State Fault Refusal :=
  retire (.oraZpx z) (logical (· ||| ·) (.zpx z)) s

/-- ORA ABS, opcode 0x0D (R151). -/
def execOraAbs (w : Word) (s : State) : Host.Outcome State Fault Refusal :=
  retire (.oraAbs w) (logical (· ||| ·) (.abs w)) s

/-- ORA ABX, opcode 0x1D (R151). -/
def execOraAbx (w : Word) (s : State) : Host.Outcome State Fault Refusal :=
  retire (.oraAbx w) (logical (· ||| ·) (.abx w)) s

/-- ORA ABY, opcode 0x19 (R151). -/
def execOraAby (w : Word) (s : State) : Host.Outcome State Fault Refusal :=
  retire (.oraAby w) (logical (· ||| ·) (.aby w)) s

/-- ORA IZX, opcode 0x01 (R151). -/
def execOraIzx (z : Byte) (s : State) : Host.Outcome State Fault Refusal :=
  retire (.oraIzx z) (logical (· ||| ·) (.izx z)) s

/-- ORA IZY, opcode 0x11 (R151). -/
def execOraIzy (z : Byte) (s : State) : Host.Outcome State Fault Refusal :=
  retire (.oraIzy z) (logical (· ||| ·) (.izy z)) s

/-- EOR IMM, opcode 0x49 (R152). -/
def execEorImm (d : Byte) (s : State) : Host.Outcome State Fault Refusal :=
  retire (.eorImm d) (logical (· ^^^ ·) (.imm d)) s

/-- EOR ZP, opcode 0x45 (R152). -/
def execEorZp (z : Byte) (s : State) : Host.Outcome State Fault Refusal :=
  retire (.eorZp z) (logical (· ^^^ ·) (.zp z)) s

/-- EOR ZPX, opcode 0x55 (R152). -/
def execEorZpx (z : Byte) (s : State) : Host.Outcome State Fault Refusal :=
  retire (.eorZpx z) (logical (· ^^^ ·) (.zpx z)) s

/-- EOR ABS, opcode 0x4D (R152). -/
def execEorAbs (w : Word) (s : State) : Host.Outcome State Fault Refusal :=
  retire (.eorAbs w) (logical (· ^^^ ·) (.abs w)) s

/-- EOR ABX, opcode 0x5D (R152). -/
def execEorAbx (w : Word) (s : State) : Host.Outcome State Fault Refusal :=
  retire (.eorAbx w) (logical (· ^^^ ·) (.abx w)) s

/-- EOR ABY, opcode 0x59 (R152). -/
def execEorAby (w : Word) (s : State) : Host.Outcome State Fault Refusal :=
  retire (.eorAby w) (logical (· ^^^ ·) (.aby w)) s

/-- EOR IZX, opcode 0x41 (R152). -/
def execEorIzx (z : Byte) (s : State) : Host.Outcome State Fault Refusal :=
  retire (.eorIzx z) (logical (· ^^^ ·) (.izx z)) s

/-- EOR IZY, opcode 0x51 (R152). -/
def execEorIzy (z : Byte) (s : State) : Host.Outcome State Fault Refusal :=
  retire (.eorIzy z) (logical (· ^^^ ·) (.izy z)) s

/-- BIT ZP, opcode 0x24 (R153). -/
def execBitZp (z : Byte) (s : State) : Host.Outcome State Fault Refusal :=
  retire (.bitZp z) (bitTest (.zp z)) s

/-- BIT ABS, opcode 0x2C (R153). -/
def execBitAbs (w : Word) (s : State) : Host.Outcome State Fault Refusal :=
  retire (.bitAbs w) (bitTest (.abs w)) s

end Sys2Proof.Machine
end

