-- ==== Sys2Proof/Machine/TransferStack.lean ====
section
/-! DEFINITION. Register transfers and stack instructions (spec 43_transfer_stack.md R130 to R141). One definition per row of the opcode table, each one
line over the shared operations above it. -/

namespace Sys2Proof.Machine

/-- TAX, TAY, TXA, TYA, TSX: `dst <- src; SetZN(dst)` (R130 to R134). -/
def transfer (src dst : Reg) (_ : Byte) (s : State) : State := setZN (readReg src s) (writeReg dst (readReg src s) s)

/-- TXS: "TXS alone does not touch flags" (R135). -/
def transferPlain (src dst : Reg) (_ : Byte) (s : State) : State := writeReg dst (readReg src s) s

/-- PHA: `Push8(A)` (R138). -/
def pushA (_ : Byte) (s : State) : State := push8 s.a s

/-- PHP: `Push8(P | 0x30)`, P itself unchanged (R139). -/
def pushP (_ : Byte) (s : State) : State := push8 (pushedStatus s.p) s

/-- PLA: `A <- Pull8(); SetZN(A)` (R140, D17). -/
def pullA (_ : Byte) (s : State) : State :=
  let v := pull8 s
  setZN v.1 (writeReg .a v.1 v.2)

/-- PLP: `v <- Pull8(); P <- (v & 0xEF) | 0x20` (R141). -/
def pullP (_ : Byte) (s : State) : State :=
  let v := pull8 s
  { v.2 with p := restoredStatus v.1 }

/-! ## The meanings -/

/-- TAX IMP, opcode 0xAA (R130). -/
def execTax (s : State) : Host.Outcome State Fault Refusal :=
  retire .tax (transfer .a .x) s

/-- TAY IMP, opcode 0xA8 (R131). -/
def execTay (s : State) : Host.Outcome State Fault Refusal :=
  retire .tay (transfer .a .y) s

/-- TXA IMP, opcode 0x8A (R132). -/
def execTxa (s : State) : Host.Outcome State Fault Refusal :=
  retire .txa (transfer .x .a) s

/-- TYA IMP, opcode 0x98 (R133). -/
def execTya (s : State) : Host.Outcome State Fault Refusal :=
  retire .tya (transfer .y .a) s

/-- TSX IMP, opcode 0xBA (R134). -/
def execTsx (s : State) : Host.Outcome State Fault Refusal :=
  retire .tsx (transfer .sp .x) s

/-- TXS IMP, opcode 0x9A (R135). -/
def execTxs (s : State) : Host.Outcome State Fault Refusal :=
  retire .txs (transferPlain .x .sp) s

/-- PHA IMP, opcode 0x48 (R138). -/
def execPha (s : State) : Host.Outcome State Fault Refusal :=
  retire .pha pushA s

/-- PHP IMP, opcode 0x08 (R139). -/
def execPhp (s : State) : Host.Outcome State Fault Refusal :=
  retire .php pushP s

/-- PLA IMP, opcode 0x68 (R140). -/
def execPla (s : State) : Host.Outcome State Fault Refusal :=
  retire .pla pullA s

/-- PLP IMP, opcode 0x28 (R141). -/
def execPlp (s : State) : Host.Outcome State Fault Refusal :=
  retire .plp pullP s

end Sys2Proof.Machine
end

