-- ==== Sys2Proof/Machine/Fetch.lean ====
section
/-! DEFINITION. FETCH and DECODE (spec 40_execution_core.md R83, R84): the opcode byte is read and PC moves one past it;
then the operand bytes are read at ascending addresses, PC standing still (R85, R93). -/

namespace Sys2Proof.Machine

/-- FETCH: `bonus <- 0; opcode <- MemRead(PC, 1); PC <- (PC + 1) mod 65536` (R81, R83). A new Step starts a new record of
bus transactions (assumption log 9). -/
def fetchOpcode (s : State) : Byte × State :=
  let r := busRead s.pc { s with bonus := 0, bus := [] }
  (r.1, { r.2 with pc := r.2.pc + 1 })

/-- Read `n` bytes at ascending addresses modulo 65536. -/
def readBytes : Nat → Word → State → List Byte × State
  | 0, _, s => ([], s)
  | n + 1, addr, s =>
    let r := busRead addr s
    let q := readBytes n (addr + 1) r.2
    (r.1 :: q.1, q.2)

/-- FETCH, DECODE and the operand bytes: the instruction and the state EXECUTE starts from; for an unpopulated opcode
byte, none and the state right after the opcode read (R84). -/
def fetch (s : State) : Option Instr × State :=
  let f := fetchOpcode s
  match table f.1 with
  | none => (none, f.2)
  | some d =>
    let operands := readBytes (d.length - 1) f.2.pc f.2
    match decode (f.1 :: operands.1) with
    | .ok (i, _) => (some i, operands.2)
    | .error _ => (none, f.2)

end Sys2Proof.Machine
end

