-- ==== Sys2Proof/Machine/Step.lean ====
section
/-! DEFINITION. Step (spec 40_execution_core.md R81 to R89) and the host's placing of one instruction. -/

namespace Sys2Proof.Machine

/-- `Step`: nothing while halted (R89); otherwise FETCH and DECODE, then EXECUTE, ACCOUNT and ADVANCE of the instruction, or
the illegal-opcode exception (R84, R231). -/
def step (s : State) : Host.Outcome State Fault Refusal :=
  if s.halted then .next s
  else
    match fetch s with
    | (some i, t) => exec i t
    | (none, t) => .next (takeIllegalOpcode t)

/-- The state with an instruction of `nbits` bits `w` stored at PC, little end first, every bit above `nbits` zero up to
three bytes; the core is not halted and no external window holds one of the three addresses, so the next Step fetches
exactly it (assumption log 10). -/
def State.withFetchWord (s : State) (nbits w : Nat) : State :=
  let v := w % 2 ^ nbits
  let bytes := [BitVec.ofNat 8 v, BitVec.ofNat 8 (v / 256), BitVec.ofNat 8 (v / 65536)]
  let windows := s.cfg.bus.windows.filter fun r =>
    r.backing != .external || !(Region.holds r s.pc || Region.holds r (s.pc + 1) || Region.holds r (s.pc + 2))
  let t := hostLoad s.pc bytes s
  { t with halted := false, cfg := { t.cfg with bus := { t.cfg.bus with windows := windows } } }

end Sys2Proof.Machine
end

