-- ==== Sys2Proof/Machine/Run.lean ====
section
/-! DEFINITION. `Run` (spec 40_execution_core.md R90) and what a Step returns to the host (R88). -/

namespace Sys2Proof.Machine

/-- What `Step` returns: the value of `halted` after it (R88). -/
def stepReturn (s : State) : Option Bool :=
  match step s with
  | .next t => some t.halted
  | .fault _ => none
  | .refused _ => none

/-- A number of Steps one after another, whatever they return. -/
def steps : Nat → State → Host.Outcome State Fault Refusal
  | 0, s => .next s
  | n + 1, s =>
    match step s with
    | .next t => steps n t
    | .fault r => .fault r
    | .refused r => .refused r

/-- `Run` with the number of Steps after which the host cancels (R90; assumption log 15): Step until it returns 1. -/
def run : Nat → State → Host.Outcome State Fault Refusal
  | 0, s => .next s
  | n + 1, s =>
    match step s with
    | .next t => if t.halted then .next t else run n t
    | .fault r => .fault r
    | .refused r => .refused r

end Sys2Proof.Machine
end

