-- ==== Sys2Proof/Safety.lean ====
section
/-! DEFINITION. What counts as a safe state and a safe run, and the terms the claims are stated in: frames, the bus's
answers, and the spec's own tables transcribed from the rules (not from the decoder's table). -/

namespace Sys2Proof.Machine

/-! ## Safe states -/

/-- The core runs: the between-Step state RUNNING of spec 40_execution_core.md R82. -/
def State.running (s : State) : Prop := s.halted = false

/-- What the host can learn of the fault from a halted state (spec 60_exceptions.md R231): "the faulting opcode's address,
which is (PC - 1) mod 65536; the opcode byte itself, which is memory at that address". DESIGN CHOICE (assumption log 8):
"memory at that address" is what the bus would answer to a read there now, so in an external window it need not be the byte
fetched, which stands in `State.bus`; the host's look is not itself a transaction. -/
def reportedFault (s : State) : Option Fault :=
  if s.halted then some (.illegalOpcode (busValue (s.pc - 1) s) (s.pc - 1)) else none

/-- The invariant of the machine: memory is in its canonical form, `P.B` is 0 (R22), `bonus` is 0, 1 or 2 (R30), and the
parameters are well formed (R6). -/
def StateInv (s : State) : Prop :=
  Memory.wf s.mem = true ∧ getFlag .b s = false ∧ s.bonus ≤ 2 ∧ s.cfg.wellFormed = true

/-! ## The bus's answers -/

/-- The state after bus reads of the listed addresses, in order. -/
def afterReads : List Word → State → State
  | [], s => s
  | addr :: rest, s => afterReads rest (busRead addr s).2

/-- What the bus answers in `s` to a read of `addr` that comes right after reads of the addresses `prior`. -/
def busAnswer (s : State) (prior : List Word) (addr : Word) : Byte := busValue addr (afterReads prior s)

/-- The state after the listed bus transactions, in order (the bytes of the reads do not matter). -/
def afterAccesses : List BusAccess → State → State
  | [], s => s
  | .read addr _ :: rest, s => afterAccesses rest (busRead addr s).2
  | .write addr v :: rest, s => afterAccesses rest (busWrite addr v s)

/-- A number of addresses from one on, ascending modulo 65536. -/
def consecutive : Nat → Word → List Word
  | 0, _ => []
  | n + 1, addr => addr :: consecutive n (addr + 1)

/-- The state behind the external windows after transactions with a bus that is the pair of functions `reads` and `writes`,
starting from `device` (R41). -/
def driven (c : Config) (reads : Nat → Word → Byte × Nat) (writes : Nat → Word → Byte → Nat) :
    List BusAccess → Nat → Nat
  | [], device => device
  | .read addr _ :: rest, device =>
    driven c reads writes rest (if isExternal c addr then (reads device addr).2 else device)
  | .write addr v :: rest, device =>
    driven c reads writes rest (if isExternal c addr then writes device addr v else device)

/-- Whether a transaction is a read. -/
def BusAccess.isRead : BusAccess → Bool
  | .read _ _ => true
  | .write _ _ => false

/-- From `s` to `t` exactly the listed bus transactions were made: they stand in the record, the reads are counted, and the
state behind the external windows is what they leave (the model's own fields, assumption log 3 and 9). -/
structure Made (accesses : List BusAccess) (s t : State) : Prop where
  bus      : t.bus = s.bus ++ accesses
  busReads : t.busReads = s.busReads + accesses.countP BusAccess.isRead
  device   : t.device = (afterAccesses accesses s).device

/-! ## Frames: what stays as it was -/

/-- Every register but the listed ones is unchanged. -/
def KeepsRegs (written : List Reg) (s t : State) : Prop := ∀ r, r ∉ written → readReg r t = readReg r s

/-- Every flag but the listed ones is unchanged; the eight flags are all of P (R17). -/
def KeepsFlags (written : List Flag) (s t : State) : Prop := ∀ f, f ∉ written → getFlag f t = getFlag f s

/-- Every byte of memory outside the listed addresses reads as before. -/
def KeepsCells (written : List Word) (s t : State) : Prop :=
  ∀ k : Nat, (∀ w ∈ written, w.toNat ≠ k) → Memory.read t.mem k = Memory.read s.mem k

/-- Everything but the listed registers, flags and cells, and but PC, the cycle counter, the bonus and the record of bus
transactions, is unchanged. -/
structure Frame (regs : List Reg) (flags : List Flag) (cells : List Word) (s t : State) : Prop where
  regs   : KeepsRegs regs s t
  flags  : KeepsFlags flags s t
  cells  : KeepsCells cells s t
  halted : t.halted = s.halted
  cfg    : t.cfg = s.cfg

/-- `t` has made the same bus transactions and accrued the same bonus as `u`. -/
structure SameTraffic (u t : State) : Prop where
  bus      : t.bus = u.bus
  busReads : t.busReads = u.busReads
  device   : t.device = u.device
  bonus    : t.bonus = u.bonus

/-- The instruction's cost is charged: base cost plus the accrued bonus (R86). -/
def Charged (i : Instr) (s t : State) : Prop := t.cycles = s.cycles + baseCycles s.cfg i.opcode + t.bonus

/-- PC ends at the next instruction: from one past the opcode it advances by length - 1 (R87). -/
def Advanced (i : Instr) (s t : State) : Prop := t.pc = s.pc + BitVec.ofNat 16 (i.length - 1)

/-- `SetZN(v)` has been applied (R26). -/
def ZeroNegativeOf (v : Byte) (t : State) : Prop := getFlag .z t = decide (v = 0) ∧ getFlag .n t = v.getLsbD 7

/-- The stack slot for a value of SP: `P_STACK_BASE + zext_16(SP)` (R51). -/
def slot (s : State) (pointer : Byte) : Word := s.cfg.stackBase + BitVec.ofNat 16 pointer.toNat

/-- Where `addr` is plain RAM its cell holds `v` (R41). What a write does elsewhere is no part of this: the statement
CellsOutsidePlainRamAreKept says it. -/
def Stored (addr : Word) (v : Byte) (s t : State) : Prop :=
  isRam s.cfg addr = true → Memory.read t.mem addr.toNat = v

/-- The carry as an integer. -/
def carryInt (c : Bool) : Int := if c then 1 else 0

/-- What one shift or rotate makes of an old carry and an old value: the result and the bit shifted out, in numbers
(R177 to R180). -/
def ShiftedAs (op : Mnemonic) (c : Bool) (old result : Byte) (out : Bool) : Prop :=
  match op with
  | .asl => result.toNat = 2 * old.toNat % 256 ∧ out = old.getLsbD 7
  | .lsr => result.toNat = old.toNat / 2 ∧ out = old.getLsbD 0
  | .rol => result.toNat = 2 * old.toNat % 256 + (if c then 1 else 0) ∧ out = old.getLsbD 7
  | .ror => result.toNat = old.toNat / 2 + (if c then 128 else 0) ∧ out = old.getLsbD 0
  | _ => False

/-! ## The spec's tables, transcribed from the rules -/

/-- The encoding tables of the instruction rules (files 42 to 48): opcode, length, base cycles, mode tag, mnemonic, bonus. -/
def ruleRows : Mnemonic → List Descriptor
  | .lda => [
     ⟨0xA9, 2, 2, .imm, .lda, .never⟩, ⟨0xA5, 2, 3, .zp, .lda, .never⟩, ⟨0xB5, 2, 4, .zpx, .lda, .never⟩,
     ⟨0xAD, 3, 4, .abs, .lda, .never⟩, ⟨0xBD, 3, 4, .abx, .lda, .pageCross⟩, ⟨0xB9, 3, 4, .aby, .lda, .pageCross⟩,
     ⟨0xA1, 2, 6, .izx, .lda, .never⟩, ⟨0xB1, 2, 5, .izy, .lda, .pageCross⟩]
  | .ldx => [
     ⟨0xA2, 2, 2, .imm, .ldx, .never⟩, ⟨0xA6, 2, 3, .zp, .ldx, .never⟩, ⟨0xB6, 2, 4, .zpy, .ldx, .never⟩,
     ⟨0xAE, 3, 4, .abs, .ldx, .never⟩, ⟨0xBE, 3, 4, .aby, .ldx, .pageCross⟩]
  | .ldy => [
     ⟨0xA0, 2, 2, .imm, .ldy, .never⟩, ⟨0xA4, 2, 3, .zp, .ldy, .never⟩, ⟨0xB4, 2, 4, .zpx, .ldy, .never⟩,
     ⟨0xAC, 3, 4, .abs, .ldy, .never⟩, ⟨0xBC, 3, 4, .abx, .ldy, .pageCross⟩]
  | .sta => [
     ⟨0x85, 2, 3, .zp, .sta, .never⟩, ⟨0x95, 2, 4, .zpx, .sta, .never⟩, ⟨0x8D, 3, 4, .abs, .sta, .never⟩,
     ⟨0x9D, 3, 5, .abx, .sta, .never⟩, ⟨0x99, 3, 5, .aby, .sta, .never⟩, ⟨0x81, 2, 6, .izx, .sta, .never⟩,
     ⟨0x91, 2, 6, .izy, .sta, .never⟩]
  | .stx => [
     ⟨0x86, 2, 3, .zp, .stx, .never⟩, ⟨0x96, 2, 4, .zpy, .stx, .never⟩, ⟨0x8E, 3, 4, .abs, .stx, .never⟩]
  | .sty => [
     ⟨0x84, 2, 3, .zp, .sty, .never⟩, ⟨0x94, 2, 4, .zpx, .sty, .never⟩, ⟨0x8C, 3, 4, .abs, .sty, .never⟩]
  | .tax => [⟨0xAA, 1, 2, .imp, .tax, .never⟩]
  | .tay => [⟨0xA8, 1, 2, .imp, .tay, .never⟩]
  | .txa => [⟨0x8A, 1, 2, .imp, .txa, .never⟩]
  | .tya => [⟨0x98, 1, 2, .imp, .tya, .never⟩]
  | .tsx => [⟨0xBA, 1, 2, .imp, .tsx, .never⟩]
  | .txs => [⟨0x9A, 1, 2, .imp, .txs, .never⟩]
  | .pha => [⟨0x48, 1, 3, .imp, .pha, .never⟩]
  | .php => [⟨0x08, 1, 3, .imp, .php, .never⟩]
  | .pla => [⟨0x68, 1, 4, .imp, .pla, .never⟩]
  | .plp => [⟨0x28, 1, 4, .imp, .plp, .never⟩]
  | .and => [
     ⟨0x29, 2, 2, .imm, .and, .never⟩, ⟨0x25, 2, 3, .zp, .and, .never⟩, ⟨0x35, 2, 4, .zpx, .and, .never⟩,
     ⟨0x2D, 3, 4, .abs, .and, .never⟩, ⟨0x3D, 3, 4, .abx, .and, .pageCross⟩, ⟨0x39, 3, 4, .aby, .and, .pageCross⟩,
     ⟨0x21, 2, 6, .izx, .and, .never⟩, ⟨0x31, 2, 5, .izy, .and, .pageCross⟩]
  | .ora => [
     ⟨0x09, 2, 2, .imm, .ora, .never⟩, ⟨0x05, 2, 3, .zp, .ora, .never⟩, ⟨0x15, 2, 4, .zpx, .ora, .never⟩,
     ⟨0x0D, 3, 4, .abs, .ora, .never⟩, ⟨0x1D, 3, 4, .abx, .ora, .pageCross⟩, ⟨0x19, 3, 4, .aby, .ora, .pageCross⟩,
     ⟨0x01, 2, 6, .izx, .ora, .never⟩, ⟨0x11, 2, 5, .izy, .ora, .pageCross⟩]
  | .eor => [
     ⟨0x49, 2, 2, .imm, .eor, .never⟩, ⟨0x45, 2, 3, .zp, .eor, .never⟩, ⟨0x55, 2, 4, .zpx, .eor, .never⟩,
     ⟨0x4D, 3, 4, .abs, .eor, .never⟩, ⟨0x5D, 3, 4, .abx, .eor, .pageCross⟩, ⟨0x59, 3, 4, .aby, .eor, .pageCross⟩,
     ⟨0x41, 2, 6, .izx, .eor, .never⟩, ⟨0x51, 2, 5, .izy, .eor, .pageCross⟩]
  | .bit => [
     ⟨0x24, 2, 3, .zp, .bit, .never⟩, ⟨0x2C, 3, 4, .abs, .bit, .never⟩]
  | .adc => [
     ⟨0x69, 2, 2, .imm, .adc, .never⟩, ⟨0x65, 2, 3, .zp, .adc, .never⟩, ⟨0x75, 2, 4, .zpx, .adc, .never⟩,
     ⟨0x6D, 3, 4, .abs, .adc, .never⟩, ⟨0x7D, 3, 4, .abx, .adc, .pageCross⟩, ⟨0x79, 3, 4, .aby, .adc, .pageCross⟩,
     ⟨0x61, 2, 6, .izx, .adc, .never⟩, ⟨0x71, 2, 5, .izy, .adc, .pageCross⟩]
  | .sbc => [
     ⟨0xE9, 2, 2, .imm, .sbc, .never⟩, ⟨0xE5, 2, 3, .zp, .sbc, .never⟩, ⟨0xF5, 2, 4, .zpx, .sbc, .never⟩,
     ⟨0xED, 3, 4, .abs, .sbc, .never⟩, ⟨0xFD, 3, 4, .abx, .sbc, .pageCross⟩, ⟨0xF9, 3, 4, .aby, .sbc, .pageCross⟩,
     ⟨0xE1, 2, 6, .izx, .sbc, .never⟩, ⟨0xF1, 2, 5, .izy, .sbc, .pageCross⟩]
  | .cmp => [
     ⟨0xC9, 2, 2, .imm, .cmp, .never⟩, ⟨0xC5, 2, 3, .zp, .cmp, .never⟩, ⟨0xD5, 2, 4, .zpx, .cmp, .never⟩,
     ⟨0xCD, 3, 4, .abs, .cmp, .never⟩, ⟨0xDD, 3, 4, .abx, .cmp, .pageCross⟩, ⟨0xD9, 3, 4, .aby, .cmp, .pageCross⟩,
     ⟨0xC1, 2, 6, .izx, .cmp, .never⟩, ⟨0xD1, 2, 5, .izy, .cmp, .pageCross⟩]
  | .cpx => [
     ⟨0xE0, 2, 2, .imm, .cpx, .never⟩, ⟨0xE4, 2, 3, .zp, .cpx, .never⟩, ⟨0xEC, 3, 4, .abs, .cpx, .never⟩]
  | .cpy => [
     ⟨0xC0, 2, 2, .imm, .cpy, .never⟩, ⟨0xC4, 2, 3, .zp, .cpy, .never⟩, ⟨0xCC, 3, 4, .abs, .cpy, .never⟩]
  | .inc => [
     ⟨0xE6, 2, 5, .zp, .inc, .never⟩, ⟨0xF6, 2, 6, .zpx, .inc, .never⟩, ⟨0xEE, 3, 6, .abs, .inc, .never⟩,
     ⟨0xFE, 3, 7, .abx, .inc, .never⟩]
  | .dec => [
     ⟨0xC6, 2, 5, .zp, .dec, .never⟩, ⟨0xD6, 2, 6, .zpx, .dec, .never⟩, ⟨0xCE, 3, 6, .abs, .dec, .never⟩,
     ⟨0xDE, 3, 7, .abx, .dec, .never⟩]
  | .inx => [⟨0xE8, 1, 2, .imp, .inx, .never⟩]
  | .iny => [⟨0xC8, 1, 2, .imp, .iny, .never⟩]
  | .dex => [⟨0xCA, 1, 2, .imp, .dex, .never⟩]
  | .dey => [⟨0x88, 1, 2, .imp, .dey, .never⟩]
  | .asl => [
     ⟨0x0A, 1, 2, .acc, .asl, .never⟩, ⟨0x06, 2, 5, .zp, .asl, .never⟩, ⟨0x16, 2, 6, .zpx, .asl, .never⟩,
     ⟨0x0E, 3, 6, .abs, .asl, .never⟩, ⟨0x1E, 3, 7, .abx, .asl, .never⟩]
  | .lsr => [
     ⟨0x4A, 1, 2, .acc, .lsr, .never⟩, ⟨0x46, 2, 5, .zp, .lsr, .never⟩, ⟨0x56, 2, 6, .zpx, .lsr, .never⟩,
     ⟨0x4E, 3, 6, .abs, .lsr, .never⟩, ⟨0x5E, 3, 7, .abx, .lsr, .never⟩]
  | .rol => [
     ⟨0x2A, 1, 2, .acc, .rol, .never⟩, ⟨0x26, 2, 5, .zp, .rol, .never⟩, ⟨0x36, 2, 6, .zpx, .rol, .never⟩,
     ⟨0x2E, 3, 6, .abs, .rol, .never⟩, ⟨0x3E, 3, 7, .abx, .rol, .never⟩]
  | .ror => [
     ⟨0x6A, 1, 2, .acc, .ror, .never⟩, ⟨0x66, 2, 5, .zp, .ror, .never⟩, ⟨0x76, 2, 6, .zpx, .ror, .never⟩,
     ⟨0x6E, 3, 6, .abs, .ror, .never⟩, ⟨0x7E, 3, 7, .abx, .ror, .never⟩]
  | .jmp => [
     ⟨0x4C, 3, 3, .abs, .jmp, .never⟩, ⟨0x6C, 3, 5, .ind, .jmp, .never⟩]
  | .jsr => [⟨0x20, 3, 6, .abs, .jsr, .never⟩]
  | .rts => [⟨0x60, 1, 6, .imp, .rts, .never⟩]
  | .bcc => [⟨0x90, 2, 2, .rel, .bcc, .branch⟩]
  | .bcs => [⟨0xB0, 2, 2, .rel, .bcs, .branch⟩]
  | .beq => [⟨0xF0, 2, 2, .rel, .beq, .branch⟩]
  | .bne => [⟨0xD0, 2, 2, .rel, .bne, .branch⟩]
  | .bmi => [⟨0x30, 2, 2, .rel, .bmi, .branch⟩]
  | .bpl => [⟨0x10, 2, 2, .rel, .bpl, .branch⟩]
  | .bvc => [⟨0x50, 2, 2, .rel, .bvc, .branch⟩]
  | .bvs => [⟨0x70, 2, 2, .rel, .bvs, .branch⟩]
  | .clc => [⟨0x18, 1, 2, .imp, .clc, .never⟩]
  | .cld => [⟨0xD8, 1, 2, .imp, .cld, .never⟩]
  | .cli => [⟨0x58, 1, 2, .imp, .cli, .never⟩]
  | .clv => [⟨0xB8, 1, 2, .imp, .clv, .never⟩]
  | .sec => [⟨0x38, 1, 2, .imp, .sec, .never⟩]
  | .sed => [⟨0xF8, 1, 2, .imp, .sed, .never⟩]
  | .sei => [⟨0x78, 1, 2, .imp, .sei, .never⟩]
  | .brk => [⟨0x00, 1, 7, .imp, .brk, .never⟩]
  | .nop => [⟨0xEA, 1, 2, .imp, .nop, .never⟩]
  | .rti => [⟨0x40, 1, 6, .imp, .rti, .never⟩]

/-- The instruction is encoded as its rule's table says, and its opcode byte is looked up as that row. -/
def EncodedAsRule (i : Instr) : Prop :=
  ∃ d ∈ ruleRows i.mnemonic, table i.opcode = some d ∧ d.opcode = i.opcode ∧ d.mode = i.tag ∧ d.length = i.length

/-- The 105 illegal bytes of spec 30_encoding.md R68, as listed there. -/
def illegalBytes : List Byte :=
  [0x02, 0x03, 0x04, 0x07, 0x0B, 0x0C, 0x0F, 0x12, 0x13, 0x14, 0x17, 0x1A, 0x1B, 0x1C, 0x1F, 0x22] ++
  [0x23, 0x27, 0x2B, 0x2F, 0x32, 0x33, 0x34, 0x37, 0x3A, 0x3B, 0x3C, 0x3F, 0x42, 0x43, 0x44, 0x47] ++
  [0x4B, 0x4F, 0x52, 0x53, 0x54, 0x57, 0x5A, 0x5B, 0x5C, 0x5F, 0x62, 0x63, 0x64, 0x67, 0x6B, 0x6F] ++
  [0x72, 0x73, 0x74, 0x77, 0x7A, 0x7B, 0x7C, 0x7F, 0x80, 0x82, 0x83, 0x87, 0x89, 0x8B, 0x8F, 0x92] ++
  [0x93, 0x97, 0x9B, 0x9C, 0x9E, 0x9F, 0xA3, 0xA7, 0xAB, 0xAF, 0xB2, 0xB3, 0xB7, 0xBB, 0xBF, 0xC2] ++
  [0xC3, 0xC7, 0xCB, 0xCF, 0xD2, 0xD3, 0xD4, 0xD7, 0xDA, 0xDB, 0xDC, 0xDF, 0xE2, 0xE3, 0xE7, 0xEB] ++
  [0xEF, 0xF2, 0xF3, 0xF4, 0xF7, 0xFA, 0xFB, 0xFC, 0xFF]

/-- The 23 opcodes that are charged a page crossing, as spec 41_addressing_modes.md R113 lists them. -/
def pageCrossBytes : List Byte :=
  [0x1D, 0x19, 0x11, 0x3D, 0x39, 0x31, 0x5D, 0x59, 0x51, 0x7D, 0x79, 0x71, 0xBD, 0xB9, 0xB1,
   0xDD, 0xD9, 0xD1, 0xFD, 0xF9, 0xF1, 0xBE, 0xBC]

/-- The columns A, X, Y, SP and "P flags written" of spec 10_state.md R14, less the A of the memory forms of the shifts. -/
def ruleWrites (i : Instr) : List Reg × List Flag :=
  match i.mnemonic with
  | .lda => ([.a], [.z, .n])
  | .ldx => ([.x], [.z, .n])
  | .ldy => ([.y], [.z, .n])
  | .sta | .stx | .sty => ([], [])
  | .tax => ([.x], [.z, .n])
  | .tay => ([.y], [.z, .n])
  | .txa => ([.a], [.z, .n])
  | .tya => ([.a], [.z, .n])
  | .tsx => ([.x], [.z, .n])
  | .txs => ([.sp], [])
  | .pha | .php => ([.sp], [])
  | .pla => ([.a, .sp], [.z, .n])
  | .plp => ([.sp], [.c, .z, .i, .d, .b, .u, .v, .n])
  | .and | .ora | .eor => ([.a], [.z, .n])
  | .bit => ([], [.z, .v, .n])
  | .adc | .sbc => ([.a], [.c, .z, .v, .n])
  | .cmp | .cpx | .cpy => ([], [.c, .z, .n])
  | .inc | .dec => ([], [.z, .n])
  | .inx | .dex => ([.x], [.z, .n])
  | .iny | .dey => ([.y], [.z, .n])
  | .asl | .lsr | .rol | .ror => (if i.tag = .acc then [.a] else [], [.c, .z, .n])
  | .jmp => ([], [])
  | .jsr | .rts => ([.sp], [])
  | .bcc | .bcs | .beq | .bne | .bmi | .bpl | .bvc | .bvs => ([], [])
  | .clc | .sec => ([], [.c])
  | .cld | .sed => ([], [.d])
  | .cli | .sei => ([], [.i])
  | .clv => ([], [.v])
  | .brk => ([.sp], [.i])
  | .nop => ([], [])
  | .rti => ([.sp], [.c, .z, .i, .d, .b, .u, .v, .n])

/-- The mnemonics with a "w" in R14's columns "mem" or "stack", the memory forms of the shifts among them. -/
def ruleWritesMemory (i : Instr) : Bool :=
  match i.mnemonic with
  | .sta | .stx | .sty | .inc | .dec | .pha | .php | .jsr | .brk => true
  | .asl | .lsr | .rol | .ror => i.tag != .acc
  | _ => false

end Sys2Proof.Machine
end

