-- ==== Sys2Proof/Certificates/Slice0/Obligations.lean ====
section
/-! DEFINITION. The statements for the provers. `exec i s` starts where FETCH leaves the machine: PC one past the opcode,
the operand bytes in `i` (spec 40_execution_core.md R85; assumption log 6 and 7). The bus record, the count of reads and the
state behind the external windows, which `Made`, `SameTraffic` and some equations speak of, are fields of the model's own
(assumption log 3 and 9). -/

open Sys2Proof Sys2Proof.Machine

/-! ## Encoding and decoding -/

/-- R60, R66, R67, R70: decoding the bytes of any instruction gives it back with the bytes after it, and whatever the
decoder accepts is exactly the bytes of the instruction it gives. -/
def Obligations.DecodeAndEncodeAgree : Prop :=
  (∀ (i : Instr) (rest : List Byte), i.wellFormed = true → decode (encode i ++ rest) = .ok (i, rest)) ∧
  (∀ (bytes : List Byte) (i : Instr) (rest : List Byte), decode bytes = .ok (i, rest) →
    i.wellFormed = true ∧ bytes = encode i ++ rest)

/-- R68: the bytes without a table entry are the 105 bytes the rule lists, and each is refused as an illegal opcode. -/
def Obligations.UnpopulatedBytesAreTheListedOnes : Prop :=
  illegalBytes.length = 105 ∧ illegalBytes.Nodup ∧
  ∀ b : Byte, (table b = none ↔ b ∈ illegalBytes) ∧
    (b ∈ illegalBytes → ∀ rest : List Byte, decode (b :: rest) = .error (.illegalOpcode b))

/-- R71 (a) to (f): every populated entry of the table passes each check, and stands at its own opcode byte. -/
def Obligations.OpcodeTableInvariants : Prop :=
  ∀ (b : Byte) (d : Descriptor), table b = some d →
    d.opcode = b ∧ d.operandAgrees = true ∧ d.indirectOnlyJmp = true ∧ d.accumulatorOnlyShift = true ∧
    d.relativeIffBranch = true ∧ d.noImmediateStore = true ∧ d.lengthAgrees = true

/-- R67 and the encoding tables of the instruction rules: every row of every rule's table is an entry of the opcode table
and the opcode of an instruction, and every instruction is encoded as its rule's table says. -/
def Obligations.RuleTablesAreTheInstructions : Prop :=
  (∀ (op : Mnemonic) (d : Descriptor), d ∈ ruleRows op →
    table d.opcode = some d ∧ ∃ i : Instr, i.mnemonic = op ∧ i.opcode = d.opcode ∧ i.tag = d.mode) ∧
  ∀ i : Instr, EncodedAsRule i

/-- Words written out from the decode vectors of spec 95_test_vectors.md part 2, the examples of R72 and the encoding tables of
the instruction rules; the last one is cut short, and that the decoder refuses it is the decoder's own (no Step cuts an
instruction short). -/
def Obligations.SpecWordsDecodeAsWritten : Prop :=
  decode [0x00] = .ok (.brk, []) ∧ decode [0x01, 0x20] = .ok (.oraIzx 0x20, []) ∧
  decode [0x0A] = .ok (.aslAcc, []) ∧ decode [0x10, 0x80] = .ok (.bpl 0x80, []) ∧
  decode [0x20, 0x10, 0x06] = .ok (.jsr 0x0610, []) ∧ decode [0x24, 0x10] = .ok (.bitZp 0x10, []) ∧
  decode [0x6C, 0x34, 0x12] = .ok (.jmpInd 0x1234, []) ∧ decode [0x91, 0x86] = .ok (.staIzy 0x86, []) ∧
  decode [0x96, 0xFE] = .ok (.stxZpy 0xFE, []) ∧ decode [0xB5, 0x10] = .ok (.ldaZpx 0x10, []) ∧
  decode [0xBE, 0xFF, 0x02] = .ok (.ldxAby 0x02FF, []) ∧ decode [0xEA] = .ok (.nop, []) ∧
  decode [0xE9, 0x03] = .ok (.sbcImm 0x03, []) ∧ decode [0xAA] = .ok (.tax, []) ∧
  decode [0x08] = .ok (.php, []) ∧ decode [0xC4, 0x10] = .ok (.cpyZp 0x10, []) ∧
  decode [0xFE, 0xFF, 0x01] = .ok (.incAbx 0x01FF, []) ∧ decode [0x78] = .ok (.sei, []) ∧ decode [0x40] = .ok (.rti, []) ∧
  decode [0x02] = .error (.illegalOpcode 0x02) ∧ decode [0xAD, 0x34] = .error (.truncated 0xAD)

/-! ## The Step -/

/-- R81, R83, R85, R93: when the bus answers the bytes of instruction `i` at PC, the Step is `exec i` on the state with PC
one past the opcode, the bonus cleared, and the reads of the instruction bytes made in ascending order. -/
def Obligations.StepRunsTheDecodedInstruction : Prop :=
  ∀ (i : Instr) (s : State), s.halted = false →
    (∀ k b, (encode i)[k]? = some b → busAnswer s (consecutive k s.pc) (s.pc + BitVec.ofNat 16 k) = b) →
    step s = exec i { s with
      pc := s.pc + 1
      bonus := 0
      bus := (encode i).mapIdx fun k b => .read (s.pc + BitVec.ofNat 16 k) b
      busReads := s.busReads + i.length
      device := (afterReads (consecutive i.length s.pc) s).device }

/-- R89: a Step of a halted core changes nothing and returns halted; Reset clears the fault. -/
def Obligations.HaltedStepChangesNothing : Prop :=
  ∀ s : State, s.halted = true →
    step s = .next s ∧ stepReturn s = some true ∧ (hostReset s).halted = false

/-- R231: fetching an illegal byte sets `halted`, leaves PC one past it, makes the one opcode read, and changes nothing
else; in memory, plain or ROM, the host finds the opcode and its address. -/
def Obligations.IllegalOpcodeHaltsThere : Prop :=
  ∀ (s : State) (b : Byte), s.halted = false → b ∈ illegalBytes → busAnswer s [] s.pc = b →
    ∃ t, step s = .next t ∧ stepReturn s = some true ∧
      t = { s with
        pc := s.pc + 1
        halted := true
        bonus := 0
        bus := [.read s.pc b]
        busReads := s.busReads + 1
        device := (afterReads [s.pc] s).device } ∧
      (isExternal s.cfg s.pc = false → reportedFault t = some (.illegalOpcode b s.pc))

/-- R91, R234: no Step ends in a fault or a refusal, whatever the state, and no instruction does. That the one fault a Step
may record (R91) is a NEXT state with `halted` set is the model's reading (DEDUCED, assumption log 8). -/
def Obligations.EveryStepAnswersNext : Prop :=
  (∀ s : State, ∃ t, step s = .next t) ∧ ∀ (i : Instr) (s : State), ∃ t, exec i s = .next t

/-- The invariant `StateInv` (canonical memory, P.B = 0 of R22, bonus at most 2 of R30, well-formed parameters) is kept by every
Step from every state that has it. -/
def Obligations.InvariantKeptByEveryStep : Prop :=
  ∀ s t : State, StateInv s → step s = .next t → StateInv t

/-- The invariant holds after creation on any bus, after Reset of a created core, and Reset gives it back `P.B = 0` and the
bonus. -/
def Obligations.InvariantAtCreationAndReset : Prop :=
  (∀ bus : Bus, StateInv (State.createdOn bus)) ∧ StateInv State.reset ∧
  ∀ s : State, Memory.wf s.mem = true → s.cfg.wellFormed = true → StateInv (hostReset s)

/-- R28, R86: a Step that executes an opcode adds its base cost plus the bonus, the bonus being 0 in the class never, at
most 1 in the class page_cross and at most 2 in the class branch; a faulting Step and Reset add nothing. -/
def Obligations.StepChargesBaseCostAndBonus : Prop :=
  (∀ (s t : State) (d : Descriptor), s.halted = false → step s = .next t → table (busAnswer s [] s.pc) = some d →
    t.cycles = s.cycles + baseCycles s.cfg d.opcode + t.bonus ∧
    (d.bonus = .never → t.bonus = 0) ∧ (d.bonus = .pageCross → t.bonus ≤ 1) ∧ (d.bonus = .branch → t.bonus ≤ 2)) ∧
  (∀ s t : State, s.halted = false → step s = .next t → table (busAnswer s [] s.pc) = none →
    t.cycles = s.cycles ∧ t.bonus = 0) ∧
  ∀ s : State, (hostReset s).cycles = s.cycles

/-- R29: `halted` is set by `IllegalOpcode` and by nothing else, no instruction changes it, and Reset clears it. -/
def Obligations.HaltedIsSetOnlyByIllegalOpcode : Prop :=
  State.created.halted = false ∧ (∀ s : State, (hostReset s).halted = false) ∧
  (∀ (i : Instr) (s t : State), exec i s = .next t → t.halted = s.halted) ∧
  ∀ s t : State, s.halted = false → step s = .next t →
    (t.halted = true ↔ busAnswer s [] s.pc ∈ illegalBytes)

/-- R6 (the model's choice of place, assumption log 4): the parameters never change, and the count of bus reads never
falls. -/
def Obligations.StepKeepsTheParameters : Prop :=
  ∀ s t : State, step s = .next t → t.cfg = s.cfg ∧ s.busReads ≤ t.busReads

/-- R90, R89: Run with a Step budget ends where as many Steps end, since Steps of a halted core change nothing. -/
def Obligations.RunIsRepeatedStep : Prop :=
  ∀ (n : Nat) (s : State), run n s = steps n s

/-- R250: creation, on any bus, leaves every item of R10 at 0 and makes no bus access. -/
def Obligations.CreationIsAllZero : Prop :=
  ∀ bus : Bus,
    let s := State.createdOn bus
    s.a = 0 ∧ s.x = 0 ∧ s.y = 0 ∧ s.sp = 0 ∧ s.p = 0 ∧ s.pc = 0 ∧ s.cycles = 0 ∧ s.halted = false ∧ s.bonus = 0 ∧ s.bus = []

/-- R251: the whole of `Reset`. The fields `bus`, `busReads` and `device`, in which its two bus reads show, are the model's own
(assumption log 3 and 9). -/
def Obligations.ResetEstablishesTheStartupState : Prop :=
  (∀ s : State, hostReset s = { s with
    a := 0
    x := 0
    y := 0
    sp := s.cfg.spReset
    p := 0
    pc := joinBytes (busAnswer s [0xFFFC] 0xFFFD) (busAnswer s [] 0xFFFC)
    halted := false
    bonus := 0
    bus := [.read 0xFFFC (busAnswer s [] 0xFFFC), .read 0xFFFD (busAnswer s [0xFFFC] 0xFFFD)]
    busReads := s.busReads + 2
    device := (afterReads [0xFFFC, 0xFFFD] s).device }) ∧
  ∀ bus : Bus, (Config.default bus).spReset = 0xFF

/-! ## Whole-machine rules -/

/-- R14: each instruction writes no register and no flag but those its row of the table marks, and only the instructions
marked "w" under mem or stack change memory. -/
def Obligations.InstructionsWriteOnlyWhatTheTableSays : Prop :=
  ∀ (i : Instr) (s t : State), exec i s = .next t →
    KeepsRegs (ruleWrites i).1 s t ∧ KeepsFlags (ruleWrites i).2 s t ∧
    (ruleWritesMemory i = false → t.mem = s.mem)

/-- R17, R27: the flags stand at bits 0 to 7 of P, and the primitives change exactly the bits they name. -/
def Obligations.FlagPrimitives : Prop :=
  ([Flag.c, Flag.z, Flag.i, Flag.d, Flag.b, Flag.u, Flag.v, Flag.n].map Flag.pos = [0, 1, 2, 3, 4, 5, 6, 7]) ∧
  (∀ (bits p : Byte) (k : Nat), k < 8 → (setFlag bits p).getLsbD k = (p.getLsbD k || bits.getLsbD k) ∧
    (clearFlag bits p).getLsbD k = (p.getLsbD k && !bits.getLsbD k)) ∧
  (∀ (p : Byte) (k : Nat), k < 8 → hasFlag (BitVec.ofNat 8 (2 ^ k)) p = p.getLsbD k) ∧
  (∀ (p : Byte) (pos k : Nat) (b : Bool), pos < 8 → k < 8 →
    (setBit pos b p).getLsbD k = if k = pos then b else p.getLsbD k) ∧
  ∀ v : Byte, isNegative v = true ↔ 128 ≤ v.toNat

/-- R22, R23: PLP and RTI leave Break 0 and Break2 1 whatever they pull, and no other instruction writes either. -/
def Obligations.BreakFlagsAreWrittenByPlpAndRtiAlone : Prop :=
  ∀ (i : Instr) (s t : State), exec i s = .next t →
    if i = .plp ∨ i = .rti then getFlag .b t = false ∧ getFlag .u t = true
    else getFlag .b t = getFlag .b s ∧ getFlag .u t = getFlag .u s

/-- R20 to R23, R94: Break and Break2 steer nothing, PHP and BRK included: two executions of one instruction from states that
differ only in those two flags end alike but for them. Interrupt-Disable and Decimal steer nothing either, but PHP and BRK
push them: two executions of any other instruction from states that differ only in the four end alike but for them. -/
def Obligations.InterruptDecimalBreakFlagsSteerNothing : Prop :=
  ∀ (i : Instr) (s t : State) (p' : Byte) (seen : List Flag),
    seen = [.c, .z, .i, .d, .v, .n] ∨ seen = [.c, .z, .v, .n] ∧ i.mnemonic ≠ .php ∧ i.mnemonic ≠ .brk →
    (∀ f ∈ seen, getFlag f { s with p := p' } = getFlag f s) → exec i s = .next t →
    ∃ q : Byte, exec i { s with p := p' } = .next { t with p := q } ∧
      ∀ f ∈ seen, getFlag f { t with p := q } = getFlag f t

/-- R28, R86, R258: no result depends on the cycle counter or on the cycle table; they change `cycles` alone. -/
def Obligations.CyclesSteerNothing : Prop :=
  ∀ (i : Instr) (s t : State) (n : Nat) (costs : List (Byte × Nat)), exec i s = .next t →
    ∃ n' : Nat, exec i { s with cycles := n, cfg := { s.cfg with cycleOverrides := costs } } =
      .next { t with cycles := n', cfg := { t.cfg with cycleOverrides := costs } }

/-- R41, R58: after a write in plain RAM a read of memory, plain or ROM, answers the byte written at its address and what it
answered before at any other. Canonical memories are what reads say of them: equal reads are equal data, writes to two
addresses commute, a second write to one address hides the first, and writing back what is read changes nothing. -/
def Obligations.MemoryIsWhatReadsSay : Prop :=
  (∀ (addr b : Word) (v : Byte) (s : State), isRam s.cfg addr = true → isExternal s.cfg b = false →
    (busRead b (busWrite addr v s)).1 = if b = addr then v else (busRead b s).1) ∧
  (∀ m m' : List Host.Cell, Memory.wf m = true → Memory.wf m' = true →
    (∀ k, Memory.read m k = Memory.read m' k) → m = m') ∧
  ∀ (m : List Host.Cell) (k j : Nat) (v w : Byte), Memory.wf m = true → k < 65536 → j < 65536 →
    (k ≠ j → Memory.write k v (Memory.write j w m) = Memory.write j w (Memory.write k v m)) ∧
    Memory.write k v (Memory.write k w m) = Memory.write k v m ∧ Memory.write k (Memory.read m k) m = m

/-- R43, R44, R45: a word read takes the low byte at the address and the high byte one above, modulo 65536, low first; a word
written to plain RAM reads back. -/
def Obligations.WordsAreLittleEndian : Prop :=
  (∀ (addr : Word) (s : State), busReadWord addr s =
    (joinBytes (busAnswer s [addr] (addr + 1)) (busAnswer s [] addr),
      { s with
        bus := s.bus ++ [.read addr (busAnswer s [] addr), .read (addr + 1) (busAnswer s [addr] (addr + 1))]
        busReads := s.busReads + 2
        device := (afterReads [addr, addr + 1] s).device })) ∧
  (∀ (addr w : Word) (s : State), Made [.write addr (lo w), .write (addr + 1) (hi w)] s (busWriteWord addr w s)) ∧
  ∀ (addr w : Word) (s : State), isRam s.cfg addr = true → isRam s.cfg (addr + 1) = true →
    (busReadWord addr (busWriteWord addr w s)).1 = w

/-- R56: a byte a store has put at the address of the next instruction is the opcode the next Step fetches. -/
def Obligations.NextFetchSeesTheStore : Prop :=
  ∀ (i : Instr) (r : Reg) (m : AddrMode) (s t : State),
    (i.mnemonic, r) ∈ [(Mnemonic.sta, Reg.a), (.stx, .x), (.sty, .y)] → i.addrMode = some m →
    isRam s.cfg (ea i.opcode m s).1 = true → exec i s = .next t → t.pc = (ea i.opcode m s).1 →
    (fetchOpcode t).1 = readReg r s

/-! ## Addressing -/

/-- R101 to R105, R111: the modes with one address in the operand; the zero-page sums stay in page 0. -/
def Obligations.PlainModesResolve : Prop :=
  ∀ (opcode z : Byte) (w : Word) (s : State),
    ea opcode (.imm z) s = (s.pc, s) ∧ ea opcode (.rel z) s = (s.pc, s) ∧
    (ea opcode (.zp z) s).1.toNat = z.toNat ∧ (ea opcode (.zp z) s).2 = s ∧
    (ea opcode (.zpx z) s).1.toNat = (z.toNat + s.x.toNat) % 256 ∧ (ea opcode (.zpx z) s).2 = s ∧
    (ea opcode (.zpy z) s).1.toNat = (z.toNat + s.y.toNat) % 256 ∧ (ea opcode (.zpy z) s).2 = s ∧
    ea opcode (.abs w) s = (w, s)

/-- R113: `charges_page_cross` is true exactly for the 23 listed opcodes; R106, R107, R110: the index is added to the base
modulo 65536, with one bonus cycle for a charged opcode exactly when the high byte changes. -/
def Obligations.IndexedModesResolve : Prop :=
  (∀ opcode : Byte, chargesPageCross opcode = true ↔ opcode ∈ pageCrossBytes) ∧
  ∀ (opcode z : Byte) (w : Word) (s : State),
    let charged (base target : Word) : Nat :=
      if opcode ∈ pageCrossBytes ∧ base.toNat / 256 ≠ target.toNat / 256 then 1 else 0
    let byX := ea opcode (.abx w) s
    let byY := ea opcode (.aby w) s
    let base := readPtrZp z s
    let viaPtr := ea opcode (.izy z) s
    byX.1.toNat = (w.toNat + s.x.toNat) % 65536 ∧ byX.2 = { s with bonus := s.bonus + charged w byX.1 } ∧
    byY.1.toNat = (w.toNat + s.y.toNat) % 65536 ∧ byY.2 = { s with bonus := s.bonus + charged w byY.1 } ∧
    viaPtr.1.toNat = (base.1.toNat + s.y.toNat) % 65536 ∧
    viaPtr.2 = { base.2 with bonus := s.bonus + charged base.1 viaPtr.1 }

/-- R114, R109: a zero-page pointer is two reads, low byte first, the high byte one above the low byte's address or, under
`P_ZP_PTR_WRAP`, inside the zero page; Indirect,X adds X to the pointer's address modulo 256. -/
def Obligations.ZeroPagePointersResolve : Prop :=
  ∀ (opcode zp : Byte) (s : State),
    (∃ highAddr : Word,
      highAddr.toNat = (if s.cfg.zpPtrWrap then (zp.toNat + 1) % 256 else zp.toNat + 1) ∧
      let lowAddr : Word := BitVec.ofNat 16 zp.toNat
      let l := busAnswer s [] lowAddr
      let h := busAnswer s [lowAddr] highAddr
      (readPtrZp zp s).1.toNat = 256 * h.toNat + l.toNat ∧
      (readPtrZp zp s).2 = { s with
        bus := s.bus ++ [.read lowAddr l, .read highAddr h]
        busReads := s.busReads + 2
        device := (afterReads [lowAddr, highAddr] s).device }) ∧
    ea opcode (.izx zp) s = readPtrZp (BitVec.ofNat 8 ((zp.toNat + s.x.toNat) % 256)) s

/-- R115: the operand of a mode other than IMM and REL is one read at the effective address, after the resolver's own
reads; the operand of IMM and REL is the instruction's second byte. -/
def Obligations.OperandsAreReadAtTheEffectiveAddress : Prop :=
  ∀ (opcode : Byte) (m : AddrMode) (s : State),
    let e := ea opcode m s
    (∀ d, m = .imm d ∨ m = .rel d → operand opcode m s = (d, s)) ∧
    ((∀ d, m ≠ .imm d ∧ m ≠ .rel d) → operand opcode m s =
      (busAnswer e.2 [] e.1, { e.2 with
        bus := e.2.bus ++ [.read e.1 (busAnswer e.2 [] e.1)]
        busReads := e.2.busReads + 1
        device := (afterReads [e.1] e.2).device }))

/-! ## Loads, stores, transfers, stack -/

/-- R121, R122, R123: LDA, LDX, LDY in every mode. -/
def Obligations.LoadResult : Prop :=
  ∀ (i : Instr) (r : Reg) (m : AddrMode) (s : State),
    (i.mnemonic, r) ∈ [(Mnemonic.lda, Reg.a), (.ldx, .x), (.ldy, .y)] → i.addrMode = some m →
    let o := operand i.opcode m s
    ∃ t, exec i s = .next t ∧ readReg r t = o.1 ∧ ZeroNegativeOf o.1 t ∧
      Frame [r] [.z, .n] [] s t ∧ SameTraffic o.2 t ∧ Charged i s t ∧ Advanced i s t ∧ EncodedAsRule i

/-- R124, R125, R126: STA, STX, STY in every mode: one write at the effective address, no read of it, no flag. -/
def Obligations.StoreResult : Prop :=
  ∀ (i : Instr) (r : Reg) (m : AddrMode) (s : State),
    (i.mnemonic, r) ∈ [(Mnemonic.sta, Reg.a), (.stx, .x), (.sty, .y)] → i.addrMode = some m →
    let e := ea i.opcode m s
    ∃ t, exec i s = .next t ∧ Stored e.1 (readReg r s) s t ∧ Frame [] [] [e.1] s t ∧
      Made [.write e.1 (readReg r s)] e.2 t ∧ t.bonus = e.2.bonus ∧
      Charged i s t ∧ Advanced i s t ∧ EncodedAsRule i

/-- R130 to R135: the six transfers; TXS alone leaves the flags. -/
def Obligations.TransferResult : Prop :=
  (∀ (i : Instr) (src dst : Reg) (s : State),
    (i.mnemonic, src, dst) ∈ [(Mnemonic.tax, Reg.a, Reg.x), (.tay, .a, .y), (.txa, .x, .a), (.tya, .y, .a), (.tsx, .sp, .x)] →
    ∃ t, exec i s = .next t ∧ readReg dst t = readReg src s ∧ ZeroNegativeOf (readReg src s) t ∧
      Frame [dst] [.z, .n] [] s t ∧ SameTraffic s t ∧ Charged i s t ∧ Advanced i s t ∧ EncodedAsRule i) ∧
  ∀ s : State, ∃ t, exec .txs s = .next t ∧ t.sp = s.x ∧ Frame [.sp] [] [] s t ∧ SameTraffic s t ∧
    Charged .txs s t ∧ Advanced .txs s t ∧ EncodedAsRule .txs

/-- R136, R137: Push8 writes at the stack slot and decrements SP modulo 256; Pull8 increments SP first and then reads;
Pull8 after Push8 on plain RAM returns the byte and restores SP. -/
def Obligations.StackPrimitives : Prop :=
  (∀ (v : Byte) (s : State),
    let t := push8 v s
    Stored (slot s s.sp) v s t ∧ t.sp.toNat = (s.sp.toNat + 255) % 256 ∧ Frame [.sp] [] [slot s s.sp] s t ∧
    t.pc = s.pc ∧ t.cycles = s.cycles ∧ t.bonus = s.bonus ∧ Made [.write (slot s s.sp) v] s t) ∧
  (∀ s : State, (pull8 s).1 = busAnswer s [] (slot s (s.sp + 1)) ∧
    (pull8 s).2 = { s with
      sp := s.sp + 1
      bus := s.bus ++ [.read (slot s (s.sp + 1)) (busAnswer s [] (slot s (s.sp + 1)))]
      busReads := s.busReads + 1
      device := (afterReads [slot s (s.sp + 1)] s).device }) ∧
  ∀ (v : Byte) (s : State), isRam s.cfg (slot s s.sp) = true →
    (pull8 (push8 v s)).1 = v ∧ (pull8 (push8 v s)).2.sp = s.sp

/-- R138, R139: PHA pushes A; PHP pushes P with bits 4 and 5 set and leaves P. -/
def Obligations.PushResult : Prop :=
  ∀ (i : Instr) (s : State), i.mnemonic = .pha ∨ i.mnemonic = .php →
    let v := if i.mnemonic = .pha then s.a else s.p ||| 0x30
    ∃ t, exec i s = .next t ∧ Stored (slot s s.sp) v s t ∧ t.sp = s.sp - 1 ∧
      Frame [.sp] [] [slot s s.sp] s t ∧ Made [.write (slot s s.sp) v] s t ∧
      t.bonus = s.bonus ∧ Charged i s t ∧ Advanced i s t ∧ EncodedAsRule i

/-- R140, R141: PLA loads A and sets Z and N; PLP loads all of P with Break cleared and Break2 set. -/
def Obligations.PullResult : Prop :=
  ∀ s : State,
    let addr := slot s (s.sp + 1)
    let v := busAnswer s [] addr
    (∃ t, exec .pla s = .next t ∧ t.a = v ∧ t.sp = s.sp + 1 ∧ ZeroNegativeOf v t ∧ Frame [.a, .sp] [.z, .n] [] s t ∧
      Made [.read addr v] s t ∧ t.bonus = s.bonus ∧
      Charged .pla s t ∧ Advanced .pla s t ∧ EncodedAsRule .pla) ∧
    ∃ t, exec .plp s = .next t ∧ t.p = (v &&& 0xEF) ||| 0x20 ∧ t.sp = s.sp + 1 ∧
      Frame [.sp] [.c, .z, .i, .d, .b, .u, .v, .n] [] s t ∧
      Made [.read addr v] s t ∧ t.bonus = s.bonus ∧
      Charged .plp s t ∧ Advanced .plp s t ∧ EncodedAsRule .plp

/-! ## Logic and arithmetic -/

/-- R150, R151, R152: AND, ORA, EOR in every mode, bit by bit. -/
def Obligations.LogicalResult : Prop :=
  ∀ (i : Instr) (f : Bool → Bool → Bool) (m : AddrMode) (s : State),
    (i.mnemonic = .and ∧ f = and) ∨ (i.mnemonic = .ora ∧ f = or) ∨ (i.mnemonic = .eor ∧ f = xor) →
    i.addrMode = some m →
    let o := operand i.opcode m s
    ∃ t, exec i s = .next t ∧ (∀ k < 8, t.a.getLsbD k = f (s.a.getLsbD k) (o.1.getLsbD k)) ∧ ZeroNegativeOf t.a t ∧
      Frame [.a] [.z, .n] [] s t ∧ SameTraffic o.2 t ∧ Charged i s t ∧ Advanced i s t ∧ EncodedAsRule i

/-- R153: BIT in every mode: Z from A AND operand, N and V from bits 7 and 6 of the operand; A is not modified. -/
def Obligations.BitResult : Prop :=
  ∀ (i : Instr) (m : AddrMode) (s : State), i.mnemonic = .bit → i.addrMode = some m →
    let o := operand i.opcode m s
    ∃ t, exec i s = .next t ∧
      (getFlag .z t = true ↔ ∀ k < 8, (s.a.getLsbD k && o.1.getLsbD k) = false) ∧
      getFlag .n t = o.1.getLsbD 7 ∧ getFlag .v t = o.1.getLsbD 6 ∧
      Frame [] [.z, .v, .n] [] s t ∧ SameTraffic o.2 t ∧ Charged i s t ∧ Advanced i s t ∧ EncodedAsRule i

/-- R160, R161: ADC in every mode: the sum with the carry modulo 256, C the unsigned carry, V the signed overflow. -/
def Obligations.AdcResult : Prop :=
  ∀ (i : Instr) (m : AddrMode) (s : State), i.mnemonic = .adc → i.addrMode = some m →
    let o := operand i.opcode m s
    let c := getFlag .c s
    ∃ t, exec i s = .next t ∧
      (t.a.toNat : Int) = ((s.a.toNat : Int) + o.1.toNat + carryInt c) % 256 ∧
      (getFlag .c t = true ↔ 255 < (s.a.toNat : Int) + o.1.toNat + carryInt c) ∧
      (getFlag .v t = true ↔ s.a.toInt + o.1.toInt + carryInt c < -128 ∨ 127 < s.a.toInt + o.1.toInt + carryInt c) ∧
      ZeroNegativeOf t.a t ∧ Frame [.a] [.c, .z, .v, .n] [] s t ∧ SameTraffic o.2 t ∧
      Charged i s t ∧ Advanced i s t ∧ EncodedAsRule i

/-- R162: SBC in every mode. By default A - M - (1 - C) modulo 256, C set exactly when no borrow occurs, V the signed
overflow; under `P_SBC_TWOS` the adder applied to the two's-complement negation. -/
def Obligations.SbcResult : Prop :=
  ∀ (i : Instr) (m : AddrMode) (s : State), i.mnemonic = .sbc → i.addrMode = some m →
    let o := operand i.opcode m s
    let c := getFlag .c s
    ∃ t, exec i s = .next t ∧
      (s.cfg.sbcTwos = false →
        let exact : Int := (s.a.toNat : Int) - o.1.toNat - (1 - carryInt c)
        let signed : Int := s.a.toInt - o.1.toInt - (1 - carryInt c)
        (t.a.toNat : Int) = exact % 256 ∧ (getFlag .c t = true ↔ 0 ≤ exact) ∧
        (getFlag .v t = true ↔ signed < -128 ∨ 127 < signed)) ∧
      (s.cfg.sbcTwos = true →
        let negated : Byte := 0 - o.1
        (t.a.toNat : Int) = ((s.a.toNat : Int) + negated.toNat + carryInt c) % 256 ∧
        (getFlag .c t = true ↔ 255 < (s.a.toNat : Int) + negated.toNat + carryInt c) ∧
        (getFlag .v t = true ↔
          s.a.toInt + negated.toInt + carryInt c < -128 ∨ 127 < s.a.toInt + negated.toInt + carryInt c)) ∧
      ZeroNegativeOf t.a t ∧ Frame [.a] [.c, .z, .v, .n] [] s t ∧ SameTraffic o.2 t ∧
      Charged i s t ∧ Advanced i s t ∧ EncodedAsRule i

/-- R163 to R166: CMP, CPX, CPY in every mode: C set exactly when operand <= register, Z and N from the wrapped difference,
no register changed. -/
def Obligations.CompareResult : Prop :=
  ∀ (i : Instr) (r : Reg) (m : AddrMode) (s : State),
    (i.mnemonic, r) ∈ [(Mnemonic.cmp, Reg.a), (.cpx, .x), (.cpy, .y)] → i.addrMode = some m →
    let o := operand i.opcode m s
    ∃ t, exec i s = .next t ∧ (getFlag .c t = true ↔ o.1.toNat ≤ (readReg r s).toNat) ∧
      (getFlag .z t = true ↔ readReg r s = o.1) ∧
      (getFlag .n t = true ↔ 128 ≤ ((readReg r s).toNat + (256 - o.1.toNat)) % 256) ∧
      Frame [] [.c, .z, .n] [] s t ∧ SameTraffic o.2 t ∧ Charged i s t ∧ Advanced i s t ∧ EncodedAsRule i

/-! ## Increments and shifts -/

/-- R170, R171: INC and DEC in every mode: one read and then one write of the address resolved once. -/
def Obligations.IncrementMemoryResult : Prop :=
  ∀ (i : Instr) (m : AddrMode) (s : State), i.mnemonic = .inc ∨ i.mnemonic = .dec → i.addrMode = some m →
    let e := ea i.opcode m s
    let old := busAnswer e.2 [] e.1
    ∃ (new : Byte) (t : State), exec i s = .next t ∧
      new.toNat = (old.toNat + if i.mnemonic = .inc then 1 else 255) % 256 ∧ Stored e.1 new s t ∧
      ZeroNegativeOf new t ∧ Frame [] [.z, .n] [e.1] s t ∧
      Made [.read e.1 old, .write e.1 new] e.2 t ∧ t.bonus = e.2.bonus ∧
      Charged i s t ∧ Advanced i s t ∧ EncodedAsRule i

/-- R172 to R175: INX, INY, DEX, DEY. -/
def Obligations.IncrementRegisterResult : Prop :=
  ∀ (i : Instr) (r : Reg) (delta : Nat) (s : State),
    (i.mnemonic, r, delta) ∈ [(Mnemonic.inx, Reg.x, 1), (.iny, .y, 1), (.dex, .x, 255), (.dey, .y, 255)] →
    ∃ t, exec i s = .next t ∧ (readReg r t).toNat = ((readReg r s).toNat + delta) % 256 ∧
      ZeroNegativeOf (readReg r t) t ∧ Frame [r] [.z, .n] [] s t ∧ SameTraffic s t ∧
      Charged i s t ∧ Advanced i s t ∧ EncodedAsRule i

/-- R176 to R180: ASL, LSR, ROL, ROR on A (no bus access) and, in every memory mode, on one memory byte (one read, one
write of the same address, A untouched). -/
def Obligations.ShiftResult : Prop :=
  (∀ (i : Instr) (s : State), i.mnemonic.isShift = true → i.addrMode = none →
    ∃ t, exec i s = .next t ∧ ShiftedAs i.mnemonic (getFlag .c s) s.a t.a (getFlag .c t) ∧ ZeroNegativeOf t.a t ∧
      Frame [.a] [.c, .z, .n] [] s t ∧ SameTraffic s t ∧ Charged i s t ∧ Advanced i s t ∧ EncodedAsRule i) ∧
  ∀ (i : Instr) (m : AddrMode) (s : State), i.mnemonic.isShift = true → i.addrMode = some m →
    let e := ea i.opcode m s
    let old := busAnswer e.2 [] e.1
    ∃ (new : Byte) (t : State), exec i s = .next t ∧
      ShiftedAs i.mnemonic (getFlag .c s) old new (getFlag .c t) ∧ Stored e.1 new s t ∧ ZeroNegativeOf new t ∧
      Frame [] [.c, .z, .n] [e.1] s t ∧
      Made [.read e.1 old, .write e.1 new] e.2 t ∧ t.bonus = e.2.bonus ∧
      Charged i s t ∧ Advanced i s t ∧ EncodedAsRule i

/-! ## Control flow -/

/-- R190, R108, R87: JMP ends with PC at the resolved address, nothing added: the operand itself for ABS, and for IND the
word at the pointer, its high byte taken from the pointer's page under `P_JMP_IND_WRAP`. -/
def Obligations.JumpResult : Prop :=
  ∀ (w : Word) (s : State),
    (∃ t, exec (.jmpAbs w) s = .next t ∧ t.pc = w ∧ Frame [] [] [] s t ∧ SameTraffic s t ∧
      Charged (.jmpAbs w) s t ∧ EncodedAsRule (.jmpAbs w)) ∧
    ∃ (highAddr : Word) (t : State), exec (.jmpInd w) s = .next t ∧
      highAddr.toNat = (if s.cfg.jmpIndWrap then 256 * (w.toNat / 256) + (w.toNat + 1) % 256 else (w.toNat + 1) % 65536) ∧
      t.pc.toNat = 256 * (busAnswer s [w] highAddr).toNat + (busAnswer s [] w).toNat ∧ Frame [] [] [] s t ∧
      Made [.read w (busAnswer s [] w), .read highAddr (busAnswer s [w] highAddr)] s t ∧ t.bonus = s.bonus ∧ Charged (.jmpInd w) s t ∧ EncodedAsRule (.jmpInd w)

/-- R191: JSR pushes the address of its last byte (two past the opcode), high byte first, and jumps to its operand. -/
def Obligations.JsrResult : Prop :=
  ∀ (w : Word) (s : State),
    let ret := s.pc + 1
    ∃ t, exec (.jsr w) s = .next t ∧ t.pc = w ∧ t.sp = s.sp - 2 ∧
      Stored (slot s s.sp) (hi ret) s t ∧ Stored (slot s (s.sp - 1)) (lo ret) s t ∧
      Frame [.sp] [] [slot s s.sp, slot s (s.sp - 1)] s t ∧
      Made [.write (slot s s.sp) (hi ret), .write (slot s (s.sp - 1)) (lo ret)] s t ∧ t.bonus = s.bonus ∧ Charged (.jsr w) s t ∧ EncodedAsRule (.jsr w)

/-- R192: RTS pulls the low and then the high byte and ends one past that word. -/
def Obligations.RtsResult : Prop :=
  ∀ s : State,
    let l := busAnswer s [] (slot s (s.sp + 1))
    let h := busAnswer s [slot s (s.sp + 1)] (slot s (s.sp + 2))
    ∃ t, exec .rts s = .next t ∧ t.pc.toNat = (256 * h.toNat + l.toNat + 1) % 65536 ∧ t.sp = s.sp + 2 ∧
      Frame [.sp] [] [] s t ∧ Made [.read (slot s (s.sp + 1)) l, .read (slot s (s.sp + 2)) h] s t ∧ t.bonus = s.bonus ∧ Charged .rts s t ∧ EncodedAsRule .rts

/-- Spec 95_test_vectors.md S4 (R191, R192), on a stack in plain RAM: after a JSR, an RTS that finds SP and the two stack
bytes as the JSR left them, whatever else has been stored meanwhile, ends at the address following the JSR, with SP as it
was. -/
def Obligations.JsrThenRtsReturns : Prop :=
  ∀ (w : Word) (s t u v : State), (∀ q ∈ [s.sp, s.sp - 1], isRam s.cfg (slot s q) = true) →
    exec (.jsr w) s = .next t → u.sp = t.sp → u.cfg = t.cfg →
    (∀ q ∈ [s.sp, s.sp - 1], Memory.read u.mem (slot s q).toNat = Memory.read t.mem (slot s q).toNat) →
    exec .rts u = .next v → v.pc = s.pc + 2 ∧ v.sp = s.sp

/-- R193 to R201: the eight branches. Taken, PC is the next instruction's address plus the signed offset, one bonus cycle
and one more when that lies in another page; not taken, the next instruction's address and no bonus. No flag changes. -/
def Obligations.BranchResult : Prop :=
  ∀ (i : Instr) (f : Flag) (value : Bool) (off : Byte) (s : State),
    (i.mnemonic, f, value) ∈ [(Mnemonic.bcc, Flag.c, false), (.bcs, .c, true), (.beq, .z, true), (.bne, .z, false),
      (.bmi, .n, true), (.bpl, .n, false), (.bvc, .v, false), (.bvs, .v, true)] →
    i.addrMode = some (.rel off) →
    let next := s.pc + 1
    ∃ t, exec i s = .next t ∧
      (getFlag f s = value → (t.pc.toNat : Int) = ((next.toNat : Int) + off.toInt) % 65536 ∧
        t.bonus = s.bonus + if t.pc.toNat / 256 = next.toNat / 256 then 1 else 2) ∧
      (getFlag f s ≠ value → t.pc = next ∧ t.bonus = s.bonus) ∧
      Frame [] [] [] s t ∧ Made [] s t ∧ Charged i s t ∧ EncodedAsRule i

/-! ## Flags and system -/

/-- R210 to R216: the flag toggles set or clear exactly one flag. -/
def Obligations.FlagToggleResult : Prop :=
  ∀ (i : Instr) (f : Flag) (value : Bool) (s : State),
    (i.mnemonic, f, value) ∈ [(Mnemonic.clc, Flag.c, false), (.cld, .d, false), (.cli, .i, false), (.clv, .v, false),
      (.sec, .c, true), (.sed, .d, true), (.sei, .i, true)] →
    ∃ t, exec i s = .next t ∧ getFlag f t = value ∧ Frame [] [f] [] s t ∧ SameTraffic s t ∧
      Charged i s t ∧ Advanced i s t ∧ EncodedAsRule i

/-- R217, R236: BRK pushes the address two past its opcode, high byte first, then P with bits 4 and 5 set; sets I after the
push; and PC is the word at 0xFFFE, read after the pushes, low byte first. It does not halt. -/
def Obligations.BrkResult : Prop :=
  ∀ s : State,
    let ret := s.pc + 1
    let pushes : List BusAccess := [.write (slot s s.sp) (hi ret), .write (slot s (s.sp - 1)) (lo ret),
      .write (slot s (s.sp - 2)) (s.p ||| 0x30)]
    ∃ t, exec .brk s = .next t ∧
      (let pushed : State := { s with mem := t.mem, device := (afterAccesses pushes s).device }
       let l := busAnswer pushed [] 0xFFFE
       let h := busAnswer pushed [0xFFFE] 0xFFFF
       t.pc.toNat = 256 * h.toNat + l.toNat ∧ Made (pushes ++ [.read 0xFFFE l, .read 0xFFFF h]) s t) ∧
      Stored (slot s s.sp) (hi ret) s t ∧ Stored (slot s (s.sp - 1)) (lo ret) s t ∧
      Stored (slot s (s.sp - 2)) (s.p ||| 0x30) s t ∧ t.sp = s.sp - 3 ∧ getFlag .i t = true ∧
      Frame [.sp] [.i] [slot s s.sp, slot s (s.sp - 1), slot s (s.sp - 2)] s t ∧
      t.bonus = s.bonus ∧ Charged .brk s t ∧ EncodedAsRule .brk

/-- R218: NOP changes nothing but PC and the cycle counter. -/
def Obligations.NopResult : Prop :=
  ∀ s : State, EncodedAsRule .nop ∧
    exec .nop s = .next { s with cycles := s.cycles + baseCycles s.cfg 0xEA + s.bonus }

/-- R219: RTI pulls P (Break cleared, Break2 set), then the low and the high byte of PC; nothing is added to PC. -/
def Obligations.RtiResult : Prop :=
  ∀ s : State,
    let v := busAnswer s [] (slot s (s.sp + 1))
    let l := busAnswer s [slot s (s.sp + 1)] (slot s (s.sp + 2))
    let h := busAnswer s [slot s (s.sp + 1), slot s (s.sp + 2)] (slot s (s.sp + 3))
    ∃ t, exec .rti s = .next t ∧ t.p = (v &&& 0xEF) ||| 0x20 ∧ t.pc.toNat = 256 * h.toNat + l.toNat ∧
      t.sp = s.sp + 3 ∧ Frame [.sp] [.c, .z, .i, .d, .b, .u, .v, .n] [] s t ∧
      Made [.read (slot s (s.sp + 1)) v, .read (slot s (s.sp + 2)) l, .read (slot s (s.sp + 3)) h] s t ∧ t.bonus = s.bonus ∧ Charged .rti s t ∧ EncodedAsRule .rti

/-- R219, R239, on a stack in plain RAM: after a BRK, an RTI that finds SP and the three stack bytes as the BRK left them,
whatever else its handler has stored, ends two past the BRK's opcode with SP and P as before the BRK, except Break = 0 and
Break2 = 1. -/
def Obligations.BrkThenRtiRestores : Prop :=
  ∀ s t u v : State, (∀ q ∈ [s.sp, s.sp - 1, s.sp - 2], isRam s.cfg (slot s q) = true) →
    exec .brk s = .next t → u.sp = t.sp → u.cfg = t.cfg →
    (∀ q ∈ [s.sp, s.sp - 1, s.sp - 2], Memory.read u.mem (slot s q).toNat = Memory.read t.mem (slot s q).toNat) →
    exec .rti u = .next v →
    v.pc = s.pc + 1 ∧ v.sp = s.sp ∧ getFlag .b v = false ∧ getFlag .u v = true ∧
    ∀ f ∈ [Flag.c, Flag.z, Flag.i, Flag.d, Flag.v, Flag.n], getFlag f v = getFlag f s

/-! ## The bus, the model's own reading of R41 (DESIGN CHOICE, assumption log 2 and 3) -/

/-- Outside plain RAM no write changes a cell (DESIGN CHOICE, assumption log 2; R41, R52), so a ROM answers as before whatever
an instruction does. -/
def Obligations.CellsOutsidePlainRamAreKept : Prop :=
  (∀ (addr : Word) (v : Byte) (s : State), isRam s.cfg addr = false → (busWrite addr v s).mem = s.mem) ∧
  (∀ (v : Byte) (s : State), isRam s.cfg (slot s s.sp) = false → (push8 v s).mem = s.mem) ∧
  ∀ (i : Instr) (s t : State) (addr : Word), exec i s = .next t → isRam s.cfg addr = false →
    Memory.read t.mem addr.toNat = Memory.read s.mem addr.toNat ∧
    (backing s.cfg addr = some .rom → (busRead addr t).1 = (busRead addr s).1)

/-- Every transaction with the bus goes where the parameter `Bus` says (R6, R41; DESIGN CHOICE, assumption log 2): plain RAM
keeps what is written, ROM does not, and in an external window the listed part of the pair of functions is followed. -/
def Obligations.BusFollowsItsParameter : Prop :=
  ∀ (addr : Word) (v : Byte) (s : State),
    (isExternal s.cfg addr = false → busRead addr s = (Memory.read s.mem addr.toNat, { s with
      bus := s.bus ++ [.read addr (Memory.read s.mem addr.toNat)], busReads := s.busReads + 1 })) ∧
    (isExternal s.cfg addr = true → ∀ next, s.cfg.bus.answers.lookup (s.device, addr) = some (v, next) →
      busRead addr s = (v, { s with
        bus := s.bus ++ [.read addr v], busReads := s.busReads + 1, device := next })) ∧
    (isRam s.cfg addr = true → busWrite addr v s = { s with
      mem := Memory.write addr.toNat v s.mem, bus := s.bus ++ [.write addr v] }) ∧
    (backing s.cfg addr = some .rom → busWrite addr v s = { s with bus := s.bus ++ [.write addr v] }) ∧
    (isExternal s.cfg addr = true → ∀ next, s.cfg.bus.effects.lookup (s.device, addr, v) = some next →
      busWrite addr v s = { s with bus := s.bus ++ [.write addr v], device := next })

/-- R6, R41 (assumption log 2): whatever pair of functions the bus is, and whatever finite run of transactions is made with
it, some value of the parameter `Bus` with the same windows answers that run as the pair does; so a claim about every value
of the parameter is a claim about every bus. -/
def Obligations.EveryBusIsAValueOfTheParameter : Prop :=
  ∀ (reads : Nat → Word → Byte × Nat) (writes : Nat → Word → Byte → Nat) (s : State) (accesses : List BusAccess),
    ∃ bus : Bus, bus.windows = s.cfg.bus.windows ∧
      let t : State := { s with cfg := { s.cfg with bus := bus } }
      ∀ n : Nat,
        (afterAccesses (accesses.take n) t).device = driven s.cfg reads writes (accesses.take n) s.device ∧
        ∀ (addr : Word) (v : Byte), accesses[n]? = some (.read addr v) → isExternal s.cfg addr = true →
          busValue addr (afterAccesses (accesses.take n) t) =
            (reads (driven s.cfg reads writes (accesses.take n) s.device) addr).1
end

