-- ==== Sys2Proof/Laws/Decode.lean ====
section
/-! SUPPORT. The opcode table as a list: what a lookup finds, and that the cells' opcodes are distinct. -/

namespace Sys2Proof

/-- A lookup finds a cell of the map that stands at the byte looked up. -/
theorem lookup_some {b : Byte} {e : Entry} (h : lookup b = some e) : e ∈ mapRow (b.toNat / 16) ∧ e.1.opcode = b := by
  unfold lookup at h
  exact ⟨List.mem_of_find?_eq_some h, by simpa using List.find?_some h⟩

theorem table_some {b : Byte} {d : Descriptor} (h : table b = some d) : ∃ e, lookup b = some e ∧ e.1 = d := by
  simpa only [table, Option.map_eq_some_iff] using h

theorem table_none_iff {b : Byte} : table b = none ↔ lookup b = none := by
  simp [table]

/-- Every row of the map is part of the list of all cells. -/
theorem mapRow_subset (n : Nat) : mapRow n ⊆ allEntries := by
  intro e he
  unfold mapRow at he
  split at he <;> simp only [allEntries, List.mem_append] <;> simp only [he, true_or, or_true]

/-- The cells of the map stand at 151 different bytes, so no byte has two meanings. -/
theorem allEntries_opcodes_nodup : (allEntries.map fun e => e.1.opcode).Nodup := by decide +kernel

/-- The 151 populated bytes (R67). -/
theorem allEntries_length : allEntries.length = 151 := by decide +kernel

/-! ## Words and their bytes -/

@[simp] theorem lo_joinBytes (h l : Byte) : lo (joinBytes h l) = l := by
  apply BitVec.eq_of_getLsbD_eq
  intro k hk
  simp only [lo, joinBytes, BitVec.getLsbD_setWidth, BitVec.getLsbD_append]
  simp [hk]

@[simp] theorem hi_joinBytes (h l : Byte) : hi (joinBytes h l) = h := by
  apply BitVec.eq_of_getLsbD_eq
  intro k hk
  simp only [hi, joinBytes, BitVec.getLsbD_setWidth, BitVec.getLsbD_ushiftRight]
  rw [BitVec.getLsbD_append]
  simp [hk]

@[simp] theorem joinBytes_hi_lo (w : Word) : joinBytes (hi w) (lo w) = w := by
  apply BitVec.eq_of_getLsbD_eq
  intro k hk
  simp only [joinBytes]
  rw [BitVec.getLsbD_append]
  by_cases h : k < 8
  · simp [h, lo]
  · simp [h, hi, Nat.add_sub_cancel' (Nat.le_of_not_lt h), show k - 8 < 8 by omega]

/-- A word in numbers: 256 times its high byte plus its low byte. -/
theorem joinBytes_toNat (h l : Byte) : (joinBytes h l).toNat = 256 * h.toNat + l.toNat := by
  simp only [joinBytes, BitVec.toNat_append]
  rw [← Nat.shiftLeft_add_eq_or_of_lt l.isLt, Nat.shiftLeft_eq]
  omega

theorem hi_toNat (w : Word) : (hi w).toNat = w.toNat / 256 := by
  simp [hi, Nat.shiftRight_eq_div_pow]
  omega

theorem lo_toNat (w : Word) : (lo w).toNat = w.toNat % 256 := by simp [lo]

end Sys2Proof
end

