-- ==== Sys2Proof/Laws/State.lean ====
section
/-! SUPPORT. One lemma per field per update of the state, true by rfl, so that no later proof unfolds a record update. -/

namespace Sys2Proof.Machine


/-! ### writeFlag -/

@[simp] theorem writeFlag_a (f : Flag) (b : Bool) (s : State) : (writeFlag f b s).a = s.a := rfl
@[simp] theorem writeFlag_x (f : Flag) (b : Bool) (s : State) : (writeFlag f b s).x = s.x := rfl
@[simp] theorem writeFlag_y (f : Flag) (b : Bool) (s : State) : (writeFlag f b s).y = s.y := rfl
@[simp] theorem writeFlag_sp (f : Flag) (b : Bool) (s : State) : (writeFlag f b s).sp = s.sp := rfl
@[simp] theorem writeFlag_pc (f : Flag) (b : Bool) (s : State) : (writeFlag f b s).pc = s.pc := rfl
@[simp] theorem writeFlag_p (f : Flag) (b : Bool) (s : State) : (writeFlag f b s).p = setBit f.pos b s.p := rfl
@[simp] theorem writeFlag_cycles (f : Flag) (b : Bool) (s : State) : (writeFlag f b s).cycles = s.cycles := rfl
@[simp] theorem writeFlag_halted (f : Flag) (b : Bool) (s : State) : (writeFlag f b s).halted = s.halted := rfl
@[simp] theorem writeFlag_bonus (f : Flag) (b : Bool) (s : State) : (writeFlag f b s).bonus = s.bonus := rfl
@[simp] theorem writeFlag_mem (f : Flag) (b : Bool) (s : State) : (writeFlag f b s).mem = s.mem := rfl
@[simp] theorem writeFlag_bus (f : Flag) (b : Bool) (s : State) : (writeFlag f b s).bus = s.bus := rfl
@[simp] theorem writeFlag_busReads (f : Flag) (b : Bool) (s : State) : (writeFlag f b s).busReads = s.busReads := rfl
@[simp] theorem writeFlag_device (f : Flag) (b : Bool) (s : State) : (writeFlag f b s).device = s.device := rfl
@[simp] theorem writeFlag_cfg (f : Flag) (b : Bool) (s : State) : (writeFlag f b s).cfg = s.cfg := rfl

/-! ### setZN -/

@[simp] theorem setZN_a (v : Byte) (s : State) : (setZN v s).a = s.a := rfl
@[simp] theorem setZN_x (v : Byte) (s : State) : (setZN v s).x = s.x := rfl
@[simp] theorem setZN_y (v : Byte) (s : State) : (setZN v s).y = s.y := rfl
@[simp] theorem setZN_sp (v : Byte) (s : State) : (setZN v s).sp = s.sp := rfl
@[simp] theorem setZN_pc (v : Byte) (s : State) : (setZN v s).pc = s.pc := rfl
@[simp] theorem setZN_p (v : Byte) (s : State) : (setZN v s).p = setBit Flag.n.pos (isNegative v) (setBit Flag.z.pos (v == 0) s.p) := rfl
@[simp] theorem setZN_cycles (v : Byte) (s : State) : (setZN v s).cycles = s.cycles := rfl
@[simp] theorem setZN_halted (v : Byte) (s : State) : (setZN v s).halted = s.halted := rfl
@[simp] theorem setZN_bonus (v : Byte) (s : State) : (setZN v s).bonus = s.bonus := rfl
@[simp] theorem setZN_mem (v : Byte) (s : State) : (setZN v s).mem = s.mem := rfl
@[simp] theorem setZN_bus (v : Byte) (s : State) : (setZN v s).bus = s.bus := rfl
@[simp] theorem setZN_busReads (v : Byte) (s : State) : (setZN v s).busReads = s.busReads := rfl
@[simp] theorem setZN_device (v : Byte) (s : State) : (setZN v s).device = s.device := rfl
@[simp] theorem setZN_cfg (v : Byte) (s : State) : (setZN v s).cfg = s.cfg := rfl

/-! ### writePc -/

@[simp] theorem writePc_a (w : Word) (s : State) : (writePc w s).a = s.a := rfl
@[simp] theorem writePc_x (w : Word) (s : State) : (writePc w s).x = s.x := rfl
@[simp] theorem writePc_y (w : Word) (s : State) : (writePc w s).y = s.y := rfl
@[simp] theorem writePc_sp (w : Word) (s : State) : (writePc w s).sp = s.sp := rfl
@[simp] theorem writePc_pc (w : Word) (s : State) : (writePc w s).pc = w := rfl
@[simp] theorem writePc_p (w : Word) (s : State) : (writePc w s).p = s.p := rfl
@[simp] theorem writePc_cycles (w : Word) (s : State) : (writePc w s).cycles = s.cycles := rfl
@[simp] theorem writePc_halted (w : Word) (s : State) : (writePc w s).halted = s.halted := rfl
@[simp] theorem writePc_bonus (w : Word) (s : State) : (writePc w s).bonus = s.bonus := rfl
@[simp] theorem writePc_mem (w : Word) (s : State) : (writePc w s).mem = s.mem := rfl
@[simp] theorem writePc_bus (w : Word) (s : State) : (writePc w s).bus = s.bus := rfl
@[simp] theorem writePc_busReads (w : Word) (s : State) : (writePc w s).busReads = s.busReads := rfl
@[simp] theorem writePc_device (w : Word) (s : State) : (writePc w s).device = s.device := rfl
@[simp] theorem writePc_cfg (w : Word) (s : State) : (writePc w s).cfg = s.cfg := rfl

/-! ### addBonus -/

@[simp] theorem addBonus_a (k : Nat) (s : State) : (addBonus k s).a = s.a := rfl
@[simp] theorem addBonus_x (k : Nat) (s : State) : (addBonus k s).x = s.x := rfl
@[simp] theorem addBonus_y (k : Nat) (s : State) : (addBonus k s).y = s.y := rfl
@[simp] theorem addBonus_sp (k : Nat) (s : State) : (addBonus k s).sp = s.sp := rfl
@[simp] theorem addBonus_pc (k : Nat) (s : State) : (addBonus k s).pc = s.pc := rfl
@[simp] theorem addBonus_p (k : Nat) (s : State) : (addBonus k s).p = s.p := rfl
@[simp] theorem addBonus_cycles (k : Nat) (s : State) : (addBonus k s).cycles = s.cycles := rfl
@[simp] theorem addBonus_halted (k : Nat) (s : State) : (addBonus k s).halted = s.halted := rfl
@[simp] theorem addBonus_bonus (k : Nat) (s : State) : (addBonus k s).bonus = s.bonus + k := rfl
@[simp] theorem addBonus_mem (k : Nat) (s : State) : (addBonus k s).mem = s.mem := rfl
@[simp] theorem addBonus_bus (k : Nat) (s : State) : (addBonus k s).bus = s.bus := rfl
@[simp] theorem addBonus_busReads (k : Nat) (s : State) : (addBonus k s).busReads = s.busReads := rfl
@[simp] theorem addBonus_device (k : Nat) (s : State) : (addBonus k s).device = s.device := rfl
@[simp] theorem addBonus_cfg (k : Nat) (s : State) : (addBonus k s).cfg = s.cfg := rfl

/-! ### account -/

@[simp] theorem account_a (i : Instr) (s : State) : (account i s).a = s.a := rfl
@[simp] theorem account_x (i : Instr) (s : State) : (account i s).x = s.x := rfl
@[simp] theorem account_y (i : Instr) (s : State) : (account i s).y = s.y := rfl
@[simp] theorem account_sp (i : Instr) (s : State) : (account i s).sp = s.sp := rfl
@[simp] theorem account_pc (i : Instr) (s : State) : (account i s).pc = s.pc := rfl
@[simp] theorem account_p (i : Instr) (s : State) : (account i s).p = s.p := rfl
@[simp] theorem account_cycles (i : Instr) (s : State) : (account i s).cycles = s.cycles + baseCycles s.cfg i.opcode + s.bonus := rfl
@[simp] theorem account_halted (i : Instr) (s : State) : (account i s).halted = s.halted := rfl
@[simp] theorem account_bonus (i : Instr) (s : State) : (account i s).bonus = s.bonus := rfl
@[simp] theorem account_mem (i : Instr) (s : State) : (account i s).mem = s.mem := rfl
@[simp] theorem account_bus (i : Instr) (s : State) : (account i s).bus = s.bus := rfl
@[simp] theorem account_busReads (i : Instr) (s : State) : (account i s).busReads = s.busReads := rfl
@[simp] theorem account_device (i : Instr) (s : State) : (account i s).device = s.device := rfl
@[simp] theorem account_cfg (i : Instr) (s : State) : (account i s).cfg = s.cfg := rfl

/-! ### advance -/

@[simp] theorem advance_a (i : Instr) (s : State) : (advance i s).a = s.a := rfl
@[simp] theorem advance_x (i : Instr) (s : State) : (advance i s).x = s.x := rfl
@[simp] theorem advance_y (i : Instr) (s : State) : (advance i s).y = s.y := rfl
@[simp] theorem advance_sp (i : Instr) (s : State) : (advance i s).sp = s.sp := rfl
@[simp] theorem advance_pc (i : Instr) (s : State) : (advance i s).pc = s.pc + BitVec.ofNat 16 (i.length - 1) := rfl
@[simp] theorem advance_p (i : Instr) (s : State) : (advance i s).p = s.p := rfl
@[simp] theorem advance_cycles (i : Instr) (s : State) : (advance i s).cycles = s.cycles := rfl
@[simp] theorem advance_halted (i : Instr) (s : State) : (advance i s).halted = s.halted := rfl
@[simp] theorem advance_bonus (i : Instr) (s : State) : (advance i s).bonus = s.bonus := rfl
@[simp] theorem advance_mem (i : Instr) (s : State) : (advance i s).mem = s.mem := rfl
@[simp] theorem advance_bus (i : Instr) (s : State) : (advance i s).bus = s.bus := rfl
@[simp] theorem advance_busReads (i : Instr) (s : State) : (advance i s).busReads = s.busReads := rfl
@[simp] theorem advance_device (i : Instr) (s : State) : (advance i s).device = s.device := rfl
@[simp] theorem advance_cfg (i : Instr) (s : State) : (advance i s).cfg = s.cfg := rfl

/-! ### takeIllegalOpcode -/

@[simp] theorem takeIllegalOpcode_a (s : State) : (takeIllegalOpcode s).a = s.a := rfl
@[simp] theorem takeIllegalOpcode_x (s : State) : (takeIllegalOpcode s).x = s.x := rfl
@[simp] theorem takeIllegalOpcode_y (s : State) : (takeIllegalOpcode s).y = s.y := rfl
@[simp] theorem takeIllegalOpcode_sp (s : State) : (takeIllegalOpcode s).sp = s.sp := rfl
@[simp] theorem takeIllegalOpcode_pc (s : State) : (takeIllegalOpcode s).pc = s.pc := rfl
@[simp] theorem takeIllegalOpcode_p (s : State) : (takeIllegalOpcode s).p = s.p := rfl
@[simp] theorem takeIllegalOpcode_cycles (s : State) : (takeIllegalOpcode s).cycles = s.cycles := rfl
@[simp] theorem takeIllegalOpcode_halted (s : State) : (takeIllegalOpcode s).halted = true := rfl
@[simp] theorem takeIllegalOpcode_bonus (s : State) : (takeIllegalOpcode s).bonus = s.bonus := rfl
@[simp] theorem takeIllegalOpcode_mem (s : State) : (takeIllegalOpcode s).mem = s.mem := rfl
@[simp] theorem takeIllegalOpcode_bus (s : State) : (takeIllegalOpcode s).bus = s.bus := rfl
@[simp] theorem takeIllegalOpcode_busReads (s : State) : (takeIllegalOpcode s).busReads = s.busReads := rfl
@[simp] theorem takeIllegalOpcode_device (s : State) : (takeIllegalOpcode s).device = s.device := rfl
@[simp] theorem takeIllegalOpcode_cfg (s : State) : (takeIllegalOpcode s).cfg = s.cfg := rfl

/-! ### busWrite -/

@[simp] theorem busWrite_a (addr : Word) (v : Byte) (s : State) : (busWrite addr v s).a = s.a := rfl
@[simp] theorem busWrite_x (addr : Word) (v : Byte) (s : State) : (busWrite addr v s).x = s.x := rfl
@[simp] theorem busWrite_y (addr : Word) (v : Byte) (s : State) : (busWrite addr v s).y = s.y := rfl
@[simp] theorem busWrite_sp (addr : Word) (v : Byte) (s : State) : (busWrite addr v s).sp = s.sp := rfl
@[simp] theorem busWrite_pc (addr : Word) (v : Byte) (s : State) : (busWrite addr v s).pc = s.pc := rfl
@[simp] theorem busWrite_p (addr : Word) (v : Byte) (s : State) : (busWrite addr v s).p = s.p := rfl
@[simp] theorem busWrite_cycles (addr : Word) (v : Byte) (s : State) : (busWrite addr v s).cycles = s.cycles := rfl
@[simp] theorem busWrite_halted (addr : Word) (v : Byte) (s : State) : (busWrite addr v s).halted = s.halted := rfl
@[simp] theorem busWrite_bonus (addr : Word) (v : Byte) (s : State) : (busWrite addr v s).bonus = s.bonus := rfl
@[simp] theorem busWrite_mem (addr : Word) (v : Byte) (s : State) : (busWrite addr v s).mem = if isRam s.cfg addr then Memory.write addr.toNat v s.mem else s.mem := rfl
@[simp] theorem busWrite_bus (addr : Word) (v : Byte) (s : State) : (busWrite addr v s).bus = s.bus ++ [.write addr v] := rfl
@[simp] theorem busWrite_busReads (addr : Word) (v : Byte) (s : State) : (busWrite addr v s).busReads = s.busReads := rfl
@[simp] theorem busWrite_device (addr : Word) (v : Byte) (s : State) : (busWrite addr v s).device = (afterAccesses [.write addr v] s).device := rfl
@[simp] theorem busWrite_cfg (addr : Word) (v : Byte) (s : State) : (busWrite addr v s).cfg = s.cfg := rfl

/-! ### hostWrite -/

@[simp] theorem hostWrite_a (addr : Word) (v : Byte) (s : State) : (hostWrite addr v s).a = s.a := rfl
@[simp] theorem hostWrite_x (addr : Word) (v : Byte) (s : State) : (hostWrite addr v s).x = s.x := rfl
@[simp] theorem hostWrite_y (addr : Word) (v : Byte) (s : State) : (hostWrite addr v s).y = s.y := rfl
@[simp] theorem hostWrite_sp (addr : Word) (v : Byte) (s : State) : (hostWrite addr v s).sp = s.sp := rfl
@[simp] theorem hostWrite_pc (addr : Word) (v : Byte) (s : State) : (hostWrite addr v s).pc = s.pc := rfl
@[simp] theorem hostWrite_p (addr : Word) (v : Byte) (s : State) : (hostWrite addr v s).p = s.p := rfl
@[simp] theorem hostWrite_cycles (addr : Word) (v : Byte) (s : State) : (hostWrite addr v s).cycles = s.cycles := rfl
@[simp] theorem hostWrite_halted (addr : Word) (v : Byte) (s : State) : (hostWrite addr v s).halted = s.halted := rfl
@[simp] theorem hostWrite_bonus (addr : Word) (v : Byte) (s : State) : (hostWrite addr v s).bonus = s.bonus := rfl
@[simp] theorem hostWrite_mem (addr : Word) (v : Byte) (s : State) : (hostWrite addr v s).mem = Memory.write addr.toNat v s.mem := rfl
@[simp] theorem hostWrite_bus (addr : Word) (v : Byte) (s : State) : (hostWrite addr v s).bus = s.bus := rfl
@[simp] theorem hostWrite_busReads (addr : Word) (v : Byte) (s : State) : (hostWrite addr v s).busReads = s.busReads := rfl
@[simp] theorem hostWrite_device (addr : Word) (v : Byte) (s : State) : (hostWrite addr v s).device = s.device := rfl
@[simp] theorem hostWrite_cfg (addr : Word) (v : Byte) (s : State) : (hostWrite addr v s).cfg = s.cfg := rfl

/-! ### busRead: its byte and its state -/

@[simp] theorem busRead_value (addr : Word) (s : State) : (busRead addr s).1 = busAnswer s [] addr := rfl
@[simp] theorem busRead_a (addr : Word) (s : State) : (busRead addr s).2.a = s.a := rfl
@[simp] theorem busRead_x (addr : Word) (s : State) : (busRead addr s).2.x = s.x := rfl
@[simp] theorem busRead_y (addr : Word) (s : State) : (busRead addr s).2.y = s.y := rfl
@[simp] theorem busRead_sp (addr : Word) (s : State) : (busRead addr s).2.sp = s.sp := rfl
@[simp] theorem busRead_pc (addr : Word) (s : State) : (busRead addr s).2.pc = s.pc := rfl
@[simp] theorem busRead_p (addr : Word) (s : State) : (busRead addr s).2.p = s.p := rfl
@[simp] theorem busRead_cycles (addr : Word) (s : State) : (busRead addr s).2.cycles = s.cycles := rfl
@[simp] theorem busRead_halted (addr : Word) (s : State) : (busRead addr s).2.halted = s.halted := rfl
@[simp] theorem busRead_bonus (addr : Word) (s : State) : (busRead addr s).2.bonus = s.bonus := rfl
@[simp] theorem busRead_mem (addr : Word) (s : State) : (busRead addr s).2.mem = s.mem := rfl
@[simp] theorem busRead_bus (addr : Word) (s : State) : (busRead addr s).2.bus = s.bus ++ [.read addr (busAnswer s [] addr)] := rfl
@[simp] theorem busRead_busReads (addr : Word) (s : State) : (busRead addr s).2.busReads = s.busReads + 1 := rfl
@[simp] theorem busRead_device (addr : Word) (s : State) : (busRead addr s).2.device = (afterReads [addr] s).device := rfl
@[simp] theorem busRead_cfg (addr : Word) (s : State) : (busRead addr s).2.cfg = s.cfg := rfl

/-! ### pull8: its byte and its state -/

/-- The slot of R51, in the two ways it is written. -/
theorem stackAddr_eq (s : State) : stackAddr s = slot s s.sp := by
  simp only [stackAddr, slot, zext]
  congr 1
  apply BitVec.eq_of_toNat_eq
  simp

@[simp] theorem pull8_value (s : State) : (pull8 s).1 = busAnswer s [] (slot s (s.sp + 1)) := by
  simp only [pull8, stackAddr_eq, busRead_value]; rfl
@[simp] theorem pull8_a (s : State) : (pull8 s).2.a = s.a := rfl
@[simp] theorem pull8_x (s : State) : (pull8 s).2.x = s.x := rfl
@[simp] theorem pull8_y (s : State) : (pull8 s).2.y = s.y := rfl
@[simp] theorem pull8_sp (s : State) : (pull8 s).2.sp = s.sp + 1 := rfl
@[simp] theorem pull8_pc (s : State) : (pull8 s).2.pc = s.pc := rfl
@[simp] theorem pull8_p (s : State) : (pull8 s).2.p = s.p := rfl
@[simp] theorem pull8_cycles (s : State) : (pull8 s).2.cycles = s.cycles := rfl
@[simp] theorem pull8_halted (s : State) : (pull8 s).2.halted = s.halted := rfl
@[simp] theorem pull8_bonus (s : State) : (pull8 s).2.bonus = s.bonus := rfl
@[simp] theorem pull8_mem (s : State) : (pull8 s).2.mem = s.mem := rfl
@[simp] theorem pull8_bus (s : State) : (pull8 s).2.bus = s.bus ++ [.read (slot s (s.sp + 1)) (busAnswer s [] (slot s (s.sp + 1)))] := by
  simp only [pull8, stackAddr_eq, busRead_bus]; rfl
@[simp] theorem pull8_busReads (s : State) : (pull8 s).2.busReads = s.busReads + 1 := rfl
@[simp] theorem pull8_device (s : State) : (pull8 s).2.device = (afterReads [slot s (s.sp + 1)] s).device := by
  simp only [pull8, stackAddr_eq]; rfl
@[simp] theorem pull8_cfg (s : State) : (pull8 s).2.cfg = s.cfg := rfl

/-! ### push8 -/

@[simp] theorem push8_a (v : Byte) (s : State) : (push8 v s).a = s.a := rfl
@[simp] theorem push8_x (v : Byte) (s : State) : (push8 v s).x = s.x := rfl
@[simp] theorem push8_y (v : Byte) (s : State) : (push8 v s).y = s.y := rfl
@[simp] theorem push8_sp (v : Byte) (s : State) : (push8 v s).sp = s.sp - 1 := rfl
@[simp] theorem push8_pc (v : Byte) (s : State) : (push8 v s).pc = s.pc := rfl
@[simp] theorem push8_p (v : Byte) (s : State) : (push8 v s).p = s.p := rfl
@[simp] theorem push8_cycles (v : Byte) (s : State) : (push8 v s).cycles = s.cycles := rfl
@[simp] theorem push8_halted (v : Byte) (s : State) : (push8 v s).halted = s.halted := rfl
@[simp] theorem push8_bonus (v : Byte) (s : State) : (push8 v s).bonus = s.bonus := rfl
@[simp] theorem push8_mem (v : Byte) (s : State) : (push8 v s).mem = if isRam s.cfg (slot s s.sp) then Memory.write (slot s s.sp).toNat v s.mem else s.mem := by rw [← stackAddr_eq]; rfl
@[simp] theorem push8_bus (v : Byte) (s : State) : (push8 v s).bus = s.bus ++ [.write (slot s s.sp) v] := by rw [← stackAddr_eq]; rfl
@[simp] theorem push8_busReads (v : Byte) (s : State) : (push8 v s).busReads = s.busReads := rfl
@[simp] theorem push8_device (v : Byte) (s : State) : (push8 v s).device = (afterAccesses [.write (slot s s.sp) v] s).device := by rw [← stackAddr_eq]; rfl
@[simp] theorem push8_cfg (v : Byte) (s : State) : (push8 v s).cfg = s.cfg := rfl

/-! ### writeReg -/

@[simp] theorem writeReg_pc (r : Reg) (v : Byte) (s : State) : (writeReg r v s).pc = s.pc := by cases r <;> rfl
@[simp] theorem writeReg_p (r : Reg) (v : Byte) (s : State) : (writeReg r v s).p = s.p := by cases r <;> rfl
@[simp] theorem writeReg_cycles (r : Reg) (v : Byte) (s : State) : (writeReg r v s).cycles = s.cycles := by cases r <;> rfl
@[simp] theorem writeReg_halted (r : Reg) (v : Byte) (s : State) : (writeReg r v s).halted = s.halted := by cases r <;> rfl
@[simp] theorem writeReg_bonus (r : Reg) (v : Byte) (s : State) : (writeReg r v s).bonus = s.bonus := by cases r <;> rfl
@[simp] theorem writeReg_mem (r : Reg) (v : Byte) (s : State) : (writeReg r v s).mem = s.mem := by cases r <;> rfl
@[simp] theorem writeReg_bus (r : Reg) (v : Byte) (s : State) : (writeReg r v s).bus = s.bus := by cases r <;> rfl
@[simp] theorem writeReg_busReads (r : Reg) (v : Byte) (s : State) : (writeReg r v s).busReads = s.busReads := by cases r <;> rfl
@[simp] theorem writeReg_device (r : Reg) (v : Byte) (s : State) : (writeReg r v s).device = s.device := by cases r <;> rfl
@[simp] theorem writeReg_cfg (r : Reg) (v : Byte) (s : State) : (writeReg r v s).cfg = s.cfg := by cases r <;> rfl

@[simp] theorem readReg_writeReg (r q : Reg) (v : Byte) (s : State) :
    readReg q (writeReg r v s) = if q = r then v else readReg q s := by
  cases r <;> cases q <;> rfl

/-! ### readReg and getFlag see no other update -/

@[simp] theorem readReg_writeFlag (r : Reg) (f : Flag) (b : Bool) (s : State) : readReg r (writeFlag f b s) = readReg r s := by cases r <;> rfl
@[simp] theorem readReg_setZN (r : Reg) (v : Byte) (s : State) : readReg r (setZN v s) = readReg r s := by cases r <;> rfl
@[simp] theorem readReg_writePc (r : Reg) (w : Word) (s : State) : readReg r (writePc w s) = readReg r s := by cases r <;> rfl
@[simp] theorem readReg_addBonus (r : Reg) (k : Nat) (s : State) : readReg r (addBonus k s) = readReg r s := by cases r <;> rfl
@[simp] theorem readReg_account (r : Reg) (i : Instr) (s : State) : readReg r (account i s) = readReg r s := by cases r <;> rfl
@[simp] theorem readReg_advance (r : Reg) (i : Instr) (s : State) : readReg r (advance i s) = readReg r s := by cases r <;> rfl
@[simp] theorem readReg_busWrite (r : Reg) (addr : Word) (v : Byte) (s : State) : readReg r (busWrite addr v s) = readReg r s := by cases r <;> rfl
@[simp] theorem readReg_busRead (r : Reg) (addr : Word) (s : State) : readReg r ((busRead addr s).2) = readReg r s := by cases r <;> rfl
@[simp] theorem readReg_takeIllegalOpcode (r : Reg) (s : State) : readReg r (takeIllegalOpcode s) = readReg r s := by cases r <;> rfl
@[simp] theorem getFlag_writeReg (f : Flag) (r : Reg) (v : Byte) (s : State) : getFlag f (writeReg r v s) = getFlag f s := by cases r <;> rfl
@[simp] theorem getFlag_writePc (f : Flag) (w : Word) (s : State) : getFlag f (writePc w s) = getFlag f s := rfl
@[simp] theorem getFlag_addBonus (f : Flag) (k : Nat) (s : State) : getFlag f (addBonus k s) = getFlag f s := rfl
@[simp] theorem getFlag_account (f : Flag) (i : Instr) (s : State) : getFlag f (account i s) = getFlag f s := rfl
@[simp] theorem getFlag_advance (f : Flag) (i : Instr) (s : State) : getFlag f (advance i s) = getFlag f s := rfl
@[simp] theorem getFlag_busWrite (f : Flag) (addr : Word) (v : Byte) (s : State) : getFlag f (busWrite addr v s) = getFlag f s := rfl
@[simp] theorem getFlag_busRead (f : Flag) (addr : Word) (s : State) : getFlag f ((busRead addr s).2) = getFlag f s := rfl
@[simp] theorem getFlag_push8 (f : Flag) (v : Byte) (s : State) : getFlag f (push8 v s) = getFlag f s := rfl
@[simp] theorem getFlag_pull8 (f : Flag) (s : State) : getFlag f ((pull8 s).2) = getFlag f s := rfl
@[simp] theorem getFlag_takeIllegalOpcode (f : Flag) (s : State) : getFlag f (takeIllegalOpcode s) = getFlag f s := rfl

/-! ### The bus's answers and the stack slots in updated states -/

@[simp] theorem busValue_eq (addr : Word) (s : State) : busValue addr s = busAnswer s [] addr := rfl

/-- All that the bus sees of a state. -/
structure SameBus (s t : State) : Prop where
  cfg      : t.cfg = s.cfg
  mem      : t.mem = s.mem
  busReads : t.busReads = s.busReads
  device   : t.device = s.device

theorem SameBus.busValue {s t : State} (h : SameBus s t) (addr : Word) :
    Machine.busValue addr t = Machine.busValue addr s := by
  simp only [Machine.busValue, externalRead, h.cfg, h.mem, h.busReads, h.device]

theorem SameBus.busRead {s t : State} (h : SameBus s t) (addr : Word) :
    SameBus (busRead addr s).2 (busRead addr t).2 :=
  ⟨h.cfg, h.mem, congrArg (· + 1) h.busReads, by
    simp only [Machine.busRead, externalRead, h.cfg, h.busReads, h.device]⟩

theorem SameBus.afterReads {s t : State} (h : SameBus s t) (prior : List Word) :
    SameBus (afterReads prior s) (afterReads prior t) := by
  induction prior generalizing s t with
  | nil => exact h
  | cons a rest ih => exact ih (h.busRead a)

/-- The answers depend on what the bus sees of a state, and on nothing else. -/
theorem SameBus.busAnswer {s t : State} (h : SameBus s t) (prior : List Word) (addr : Word) :
    busAnswer t prior addr = busAnswer s prior addr := (h.afterReads prior).busValue addr

/-- The state reads leave behind the external windows, likewise. -/
theorem SameBus.afterReads_device {s t : State} (h : SameBus s t) (prior : List Word) :
    (Machine.afterReads prior t).device = (Machine.afterReads prior s).device := (h.afterReads prior).device

theorem SameBus.busWrite {s t : State} (h : SameBus s t) (addr : Word) (v : Byte) :
    SameBus (busWrite addr v s) (busWrite addr v t) :=
  ⟨h.cfg, by simp only [Machine.busWrite, h.cfg, h.mem], h.busReads, by
    simp only [Machine.busWrite, externalWrite, h.cfg, h.busReads, h.device]⟩

theorem SameBus.afterAccesses {s t : State} (h : SameBus s t) (accesses : List BusAccess) :
    SameBus (afterAccesses accesses s) (afterAccesses accesses t) := by
  induction accesses generalizing s t with
  | nil => exact h
  | cons a rest ih =>
    cases a with
    | read addr v => exact ih (h.busRead addr)
    | write addr v => exact ih (h.busWrite addr v)

/-- After one read the next answers are the later ones. -/
@[simp] theorem busAnswer_busRead (s : State) (prior : List Word) (addr b : Word) :
    busAnswer (busRead addr s).2 prior b = busAnswer s (addr :: prior) b := rfl

theorem sameBus_pull8 (s : State) : SameBus (busRead (slot s (s.sp + 1)) s).2 (pull8 s).2 :=
  ⟨rfl, rfl, rfl, pull8_device s⟩

@[simp] theorem busAnswer_pull8 (s : State) (prior : List Word) (b : Word) :
    busAnswer (pull8 s).2 prior b = busAnswer s (slot s (s.sp + 1) :: prior) b := (sameBus_pull8 s).busAnswer prior b

@[simp] theorem afterReads_pull8_device (s : State) (prior : List Word) :
    (afterReads prior (pull8 s).2).device = (afterReads (slot s (s.sp + 1) :: prior) s).device :=
  (sameBus_pull8 s).afterReads_device prior

@[simp] theorem busAnswer_writeFlag (f : Flag) (v : Bool) (s : State) (prior : List Word) (b : Word) :
    busAnswer (writeFlag f v s) prior b = busAnswer s prior b :=
  (SameBus.mk (s := s) (t := writeFlag f v s) rfl rfl rfl rfl).busAnswer prior b
@[simp] theorem busAnswer_setZN (v : Byte) (s : State) (prior : List Word) (b : Word) :
    busAnswer (setZN v s) prior b = busAnswer s prior b :=
  (SameBus.mk (s := s) (t := setZN v s) rfl rfl rfl rfl).busAnswer prior b
@[simp] theorem busAnswer_writePc (w : Word) (s : State) (prior : List Word) (b : Word) :
    busAnswer (writePc w s) prior b = busAnswer s prior b :=
  (SameBus.mk (s := s) (t := writePc w s) rfl rfl rfl rfl).busAnswer prior b
@[simp] theorem busAnswer_addBonus (n : Nat) (s : State) (prior : List Word) (b : Word) :
    busAnswer (addBonus n s) prior b = busAnswer s prior b :=
  (SameBus.mk (s := s) (t := addBonus n s) rfl rfl rfl rfl).busAnswer prior b
@[simp] theorem busAnswer_account (i : Instr) (s : State) (prior : List Word) (b : Word) :
    busAnswer (account i s) prior b = busAnswer s prior b :=
  (SameBus.mk (s := s) (t := account i s) rfl rfl rfl rfl).busAnswer prior b
@[simp] theorem busAnswer_advance (i : Instr) (s : State) (prior : List Word) (b : Word) :
    busAnswer (advance i s) prior b = busAnswer s prior b :=
  (SameBus.mk (s := s) (t := advance i s) rfl rfl rfl rfl).busAnswer prior b
@[simp] theorem busAnswer_writeReg (r : Reg) (v : Byte) (s : State) (prior : List Word) (b : Word) :
    busAnswer (writeReg r v s) prior b = busAnswer s prior b :=
  (SameBus.mk (s := s) (t := writeReg r v s) (by simp) (by simp) (by simp) (by simp)).busAnswer prior b

theorem afterReads_mem (prior : List Word) (s : State) : (afterReads prior s).mem = s.mem := by
  induction prior generalizing s with
  | nil => rfl
  | cons a rest ih => exact ih _

theorem afterReads_cfg (prior : List Word) (s : State) : (afterReads prior s).cfg = s.cfg := by
  induction prior generalizing s with
  | nil => rfl
  | cons a rest ih => exact ih _

/-- In memory, plain or ROM, the bus answers the cell, whatever was read before. -/
theorem busAnswer_memory {s : State} {addr : Word} (h : isExternal s.cfg addr = false) (prior : List Word) :
    busAnswer s prior addr = Memory.read s.mem addr.toNat := by
  simp [busAnswer, busValue, afterReads_mem, afterReads_cfg, h]

/-- Plain RAM is no external window. -/
theorem isExternal_of_isRam {c : Config} {addr : Word} (h : isRam c addr = true) : isExternal c addr = false := by
  have hb : backing c addr = none := by simpa [isRam] using h
  simp [isExternal, hb]

/-- The one-transaction replays, in the terms of the reads. -/
@[simp] theorem afterAccesses_read_device (addr : Word) (v : Byte) (s : State) :
    (afterAccesses [.read addr v] s).device = (afterReads [addr] s).device := rfl

/-! ### Traffic -/

theorem made_busRead (addr : Word) (s : State) : Made [.read addr (busAnswer s [] addr)] s (busRead addr s).2 :=
  ⟨rfl, rfl, rfl⟩

theorem made_busWrite (addr : Word) (v : Byte) (s : State) : Made [.write addr v] s (busWrite addr v s) :=
  ⟨rfl, rfl, rfl⟩

theorem afterAccesses_append (l r : List BusAccess) (s : State) :
    afterAccesses (l ++ r) s = afterAccesses r (afterAccesses l s) := by
  induction l generalizing s with
  | nil => rfl
  | cons a l ih => cases a <;> exact ih _

theorem afterAccesses_cfg (l : List BusAccess) (s : State) : (afterAccesses l s).cfg = s.cfg := by
  induction l generalizing s with
  | nil => rfl
  | cons a l ih => cases a <;> exact (ih _).trans rfl

theorem afterAccesses_busReads (l : List BusAccess) (s : State) :
    (afterAccesses l s).busReads = s.busReads + l.countP BusAccess.isRead := by
  induction l generalizing s with
  | nil => rfl
  | cons a l ih =>
    cases a with
    | read addr v => rw [afterAccesses, ih, List.countP_cons_of_pos rfl, busRead_busReads]; omega
    | write addr v => rw [afterAccesses, ih, List.countP_cons_of_neg (by simp [BusAccess.isRead]), busWrite_busReads]

/-- What transactions leave behind the external windows depends on the parameters, the count of reads and what stood there,
and not on memory. -/
theorem afterAccesses_device_of {s t : State} (hcfg : t.cfg = s.cfg) (hreads : t.busReads = s.busReads)
    (hdevice : t.device = s.device) (l : List BusAccess) :
    (afterAccesses l t).device = (afterAccesses l s).device := by
  induction l generalizing s t with
  | nil => exact hdevice
  | cons a l ih =>
    cases a with
    | read addr v =>
      exact ih hcfg (congrArg (· + 1) hreads) (by simp only [busRead, externalRead, hcfg, hreads, hdevice])
    | write addr v =>
      exact ih hcfg hreads (by simp only [busWrite, externalWrite, hcfg, hreads, hdevice])

/-- Traffic goes on from where it stood, whatever else has changed between. -/
theorem Made.trans {l r : List BusAccess} {s t u : State} (h : Made l s t) (h' : Made r t u)
    (hcfg : t.cfg = s.cfg) : Made (l ++ r) s u := by
  refine ⟨by rw [h'.bus, h.bus, List.append_assoc], by rw [h'.busReads, h.busReads, List.countP_append]; omega, ?_⟩
  rw [h'.device, afterAccesses_append]
  exact afterAccesses_device_of (by rw [afterAccesses_cfg, hcfg]) (by rw [h.busReads, afterAccesses_busReads]) h.device r

/-- A slot depends on the parameters alone. -/
theorem slot_of_cfg {s t : State} (h : t.cfg = s.cfg) (q : Byte) : slot t q = slot s q := by simp only [slot, h]


end Sys2Proof.Machine
end

