-- ==== Sys2Proof/Laws/Ops.lean ====
section
/-! SUPPORT. What the shared operations do, said once: memory, flags, bus, stack, resolver, fetch, reset and retiring. -/

namespace Sys2Proof.Machine

/-! ## Memory -/

theorem Memory.read_drop (m : List Host.Cell) (k j : Nat) :
    Memory.read (Memory.drop k m) j = if j = k then Memory.unlisted else Memory.read m j := by
  induction m with
  | nil => simp [Memory.drop, Memory.read]
  | cons c m ih =>
    simp only [Memory.drop] at ih
    by_cases hc : c.1 = k
    · subst hc
      simp only [Memory.drop, List.filter_cons, bne_self_eq_false, Bool.false_eq_true, ↓reduceIte, ih, Memory.read]
      by_cases hj : j = c.1
      · simp [hj]
      · simp [hj, Ne.symm hj]
    · simp only [Memory.drop, List.filter_cons, bne_iff_ne, ne_eq, hc, not_false_eq_true, ↓reduceIte, Memory.read, ih]
      by_cases hj : c.1 = j
      · subst hj; simp [hc]
      · simp [hj]

theorem Memory.read_insert (m : List Host.Cell) (k j : Nat) (v : Byte) (h : Memory.drop k m = m) :
    Memory.read (Memory.insert k v m) j = if j = k then v else Memory.read m j := by
  induction m with
  | nil =>
    by_cases hj : j = k
    · simp [Memory.insert, Memory.read, hj]
    · simp [Memory.insert, Memory.read, hj, Ne.symm hj]
  | cons c m ih =>
    have hk : c.1 ≠ k ∧ Memory.drop k m = m := by
      by_cases hc : c.1 = k
      · have hl := congrArg List.length h
        have hle : (Memory.drop k m).length ≤ m.length := List.length_filter_le _ _
        simp only [Memory.drop, List.filter_cons, hc, bne_self_eq_false, Bool.false_eq_true, ↓reduceIte,
          List.length_cons] at hl hle
        omega
      · refine ⟨hc, ?_⟩
        simpa [Memory.drop, List.filter_cons, hc] using h
    obtain ⟨hc, hm⟩ := hk
    by_cases hlt : k < c.1
    · by_cases hj : j = k
      · simp [Memory.insert, Memory.read, hlt, hj]
      · simp [Memory.insert, Memory.read, hlt, hj, Ne.symm hj]
    · simp only [Memory.insert, hlt, ↓reduceIte, Memory.read, ih hm]
      by_cases hj : c.1 = j
      · subst hj; simp [hc]
      · simp [hj]

/-- A read after a write: the written byte at its address, every other address as before. -/
theorem Memory.read_write (m : List Host.Cell) (k j : Nat) (v : Byte) :
    Memory.read (Memory.write k v m) j = if j = k then v else Memory.read m j := by
  have hdrop : Memory.drop k (Memory.drop k m) = Memory.drop k m := by simp [Memory.drop, List.filter_filter]
  unfold Memory.write
  split
  · rename_i hv; rw [Memory.read_drop, hv]
  · rw [Memory.read_insert _ _ _ _ hdrop, Memory.read_drop]
    by_cases hj : j = k <;> simp [hj]

@[simp] theorem Memory.read_write_same (m : List Host.Cell) (k : Nat) (v : Byte) :
    Memory.read (Memory.write k v m) k = v := by simp [Memory.read_write]

theorem Memory.read_write_other (m : List Host.Cell) {k j : Nat} (v : Byte) (h : j ≠ k) :
    Memory.read (Memory.write k v m) j = Memory.read m j := by simp [Memory.read_write, h]

theorem Memory.wfFrom_mono {low low' : Nat} {m : List Host.Cell} (hle : low' ≤ low) (h : Memory.wfFrom low m = true) :
    Memory.wfFrom low' m = true := by
  cases m with
  | nil => rfl
  | cons c m =>
    simp only [Memory.wfFrom, Bool.and_eq_true, decide_eq_true_eq] at h ⊢
    exact ⟨⟨⟨by omega, h.1.1.2⟩, h.1.2⟩, h.2⟩

theorem Memory.wfFrom_drop (k : Nat) {low : Nat} {m : List Host.Cell} (h : Memory.wfFrom low m = true) :
    Memory.wfFrom low (Memory.drop k m) = true := by
  induction m generalizing low with
  | nil => rfl
  | cons c m ih =>
    simp only [Memory.wfFrom, Bool.and_eq_true, decide_eq_true_eq] at h
    by_cases hc : c.1 = k
    · simp only [Memory.drop, List.filter_cons, hc, bne_self_eq_false, Bool.false_eq_true, ↓reduceIte]
      exact Memory.wfFrom_mono (by omega) (ih h.2)
    · simp only [Memory.drop, List.filter_cons, bne_iff_ne, ne_eq, hc, not_false_eq_true, ↓reduceIte, Memory.wfFrom,
        Bool.and_eq_true, decide_eq_true_eq]
      exact ⟨⟨h.1.1, by simpa using h.1.2⟩, ih h.2⟩

theorem Memory.wfFrom_insert {k low : Nat} {v : Byte} {m : List Host.Cell} (hk : k < 65536) (hlow : low ≤ k)
    (hv : v ≠ Memory.unlisted) (hne : ∀ c ∈ m, c.1 ≠ k) (h : Memory.wfFrom low m = true) :
    Memory.wfFrom low (Memory.insert k v m) = true := by
  induction m generalizing low with
  | nil => simp [Memory.insert, Memory.wfFrom, hk, hlow, hv]
  | cons c m ih =>
    simp only [Memory.wfFrom, Bool.and_eq_true, decide_eq_true_eq] at h
    have hc : c.1 ≠ k := hne c (by simp)
    by_cases hlt : k < c.1
    · simp only [Memory.insert, hlt, ↓reduceIte, Memory.wfFrom, Bool.and_eq_true, decide_eq_true_eq]
      exact ⟨⟨⟨hlow, hk⟩, by simpa using hv⟩, ⟨⟨⟨by omega, h.1.1.2⟩, h.1.2⟩, h.2⟩⟩
    · simp only [Memory.insert, hlt, ↓reduceIte, Memory.wfFrom, Bool.and_eq_true, decide_eq_true_eq]
      exact ⟨h.1, ih (by omega) (fun d hd => hne d (by simp [hd])) h.2⟩

/-- A write keeps the canonical form. -/
theorem Memory.wf_write {k : Nat} (v : Byte) {m : List Host.Cell} (hk : k < 65536) (h : Memory.wf m = true) :
    Memory.wf (Memory.write k v m) = true := by
  unfold Memory.write
  split
  · exact Memory.wfFrom_drop k h
  · rename_i hv
    refine Memory.wfFrom_insert hk (Nat.zero_le _) hv (fun c hc => ?_) (Memory.wfFrom_drop k h)
    simp only [Memory.drop, List.mem_filter, bne_iff_ne, ne_eq] at hc
    exact hc.2

/-- The host's stores keep the canonical form. -/
theorem wf_hostWrite (addr : Word) (v : Byte) {s : State} (h : Memory.wf s.mem = true) :
    Memory.wf (hostWrite addr v s).mem = true := Memory.wf_write v addr.isLt h

theorem wf_hostLoad (bytes : List Byte) (addr : Word) {s : State} (h : Memory.wf s.mem = true) :
    Memory.wf (hostLoad addr bytes s).mem = true := by
  induction bytes generalizing addr s with
  | nil => exact h
  | cons b rest ih => exact ih _ (wf_hostWrite addr b h)

/-- A bus write keeps the canonical form, in plain RAM and outside it. -/
theorem wf_busWrite (addr : Word) (v : Byte) {s : State} (h : Memory.wf s.mem = true) :
    Memory.wf (busWrite addr v s).mem = true := by
  rw [busWrite_mem]
  split
  · exact Memory.wf_write v addr.isLt h
  · exact h

theorem wf_push8 (v : Byte) {s : State} (h : Memory.wf s.mem = true) : Memory.wf (push8 v s).mem = true :=
  wf_busWrite _ v h

/-! ## Flags -/

theorem setBit_getLsbD (p : Byte) (pos k : Nat) (b : Bool) (hp : pos < 8) :
    (setBit pos b p).getLsbD k = if k = pos then b else p.getLsbD k := by
  by_cases hk : k < 8
  · cases b <;> simp [setBit, setFlag, clearFlag, bitMask, hk] <;>
      by_cases h : k = pos <;> simp [h] <;> omega
  · have hne : k ≠ pos := by omega
    rw [if_neg hne, BitVec.getLsbD_of_ge _ k (by omega), BitVec.getLsbD_of_ge _ k (by omega)]

theorem Flag.pos_lt (f : Flag) : f.pos < 8 := by cases f <;> decide

theorem Flag.pos_injective {f g : Flag} (h : f.pos = g.pos) : f = g := by
  cases f <;> cases g <;> first | rfl | (simp [Flag.pos] at h)

@[simp] theorem getFlag_writeFlag (f g : Flag) (b : Bool) (s : State) :
    getFlag g (writeFlag f b s) = if g = f then b else getFlag g s := by
  simp only [getFlag, writeFlag_p, setBit_getLsbD _ _ _ _ f.pos_lt]
  by_cases h : g = f
  · simp [h]
  · have : g.pos ≠ f.pos := fun hp => h (Flag.pos_injective hp)
    simp [h, this]

@[simp] theorem getFlag_setZN (g : Flag) (v : Byte) (s : State) :
    getFlag g (setZN v s) = if g = .n then v.getLsbD 7 else if g = .z then decide (v = 0) else getFlag g s := by
  simp only [setZN, getFlag_writeFlag, isNegative]
  rfl

/-- Two Status bytes with the same eight flags are one byte. -/
theorem flags_determine_p {s t : State} (h : ∀ f, getFlag f t = getFlag f s) : t.p = s.p := by
  apply BitVec.eq_of_getLsbD_eq
  intro k hk
  have hk' : k = 0 ∨ k = 1 ∨ k = 2 ∨ k = 3 ∨ k = 4 ∨ k = 5 ∨ k = 6 ∨ k = 7 := by omega
  rcases hk' with rfl | rfl | rfl | rfl | rfl | rfl | rfl | rfl
  · exact h .c
  · exact h .z
  · exact h .i
  · exact h .d
  · exact h .b
  · exact h .u
  · exact h .v
  · exact h .n

/-! ## The resolver makes bus traffic and bonus, and nothing else (R100) -/

/-- The two states differ in the record of bus traffic and in the bonus only. -/
def OnlyTraffic (s t : State) : Prop := t =
  { s with bus := t.bus, busReads := t.busReads, device := t.device, bonus := t.bonus }

theorem OnlyTraffic.refl (s : State) : OnlyTraffic s s := rfl

theorem OnlyTraffic.trans {s t u : State} (h : OnlyTraffic s t) (h' : OnlyTraffic t u) : OnlyTraffic s u := by
  unfold OnlyTraffic at *
  rw [h'] ; rw [h]

theorem onlyTraffic_busRead (addr : Word) (s : State) : OnlyTraffic s (busRead addr s).2 := rfl

theorem onlyTraffic_busReadPair (l h : Word) (s : State) : OnlyTraffic s (busReadPair l h s).2 := rfl

theorem onlyTraffic_indexed (opcode : Byte) (base : Word) (index : Byte) (s : State) :
    OnlyTraffic s (indexed opcode base index s).2 := by
  simp only [indexed]
  split <;> rfl

theorem onlyTraffic_ea (opcode : Byte) (m : AddrMode) (s : State) : OnlyTraffic s (ea opcode m s).2 := by
  cases m <;> first
    | rfl
    | exact onlyTraffic_indexed _ _ _ _

theorem onlyTraffic_operand (opcode : Byte) (m : AddrMode) (s : State) : OnlyTraffic s (operand opcode m s).2 := by
  cases m <;> first
    | rfl
    | exact (onlyTraffic_ea _ _ _).trans (onlyTraffic_busRead _ _)

@[simp] theorem ea_a (opcode : Byte) (m : AddrMode) (s : State) : (ea opcode m s).2.a = s.a := by
  rw [onlyTraffic_ea opcode m s]
@[simp] theorem ea_x (opcode : Byte) (m : AddrMode) (s : State) : (ea opcode m s).2.x = s.x := by
  rw [onlyTraffic_ea opcode m s]
@[simp] theorem ea_y (opcode : Byte) (m : AddrMode) (s : State) : (ea opcode m s).2.y = s.y := by
  rw [onlyTraffic_ea opcode m s]
@[simp] theorem ea_sp (opcode : Byte) (m : AddrMode) (s : State) : (ea opcode m s).2.sp = s.sp := by
  rw [onlyTraffic_ea opcode m s]
@[simp] theorem ea_pc (opcode : Byte) (m : AddrMode) (s : State) : (ea opcode m s).2.pc = s.pc := by
  rw [onlyTraffic_ea opcode m s]
@[simp] theorem ea_p (opcode : Byte) (m : AddrMode) (s : State) : (ea opcode m s).2.p = s.p := by
  rw [onlyTraffic_ea opcode m s]
@[simp] theorem ea_cycles (opcode : Byte) (m : AddrMode) (s : State) : (ea opcode m s).2.cycles = s.cycles := by
  rw [onlyTraffic_ea opcode m s]
@[simp] theorem ea_halted (opcode : Byte) (m : AddrMode) (s : State) : (ea opcode m s).2.halted = s.halted := by
  rw [onlyTraffic_ea opcode m s]
@[simp] theorem ea_mem (opcode : Byte) (m : AddrMode) (s : State) : (ea opcode m s).2.mem = s.mem := by
  rw [onlyTraffic_ea opcode m s]
@[simp] theorem ea_cfg (opcode : Byte) (m : AddrMode) (s : State) : (ea opcode m s).2.cfg = s.cfg := by
  rw [onlyTraffic_ea opcode m s]

@[simp] theorem readReg_ea (r : Reg) (opcode : Byte) (m : AddrMode) (s : State) :
    readReg r (ea opcode m s).2 = readReg r s := by cases r <;> simp [readReg]

@[simp] theorem getFlag_ea (f : Flag) (opcode : Byte) (m : AddrMode) (s : State) :
    getFlag f (ea opcode m s).2 = getFlag f s := by simp [getFlag]

@[simp] theorem operand_a (opcode : Byte) (m : AddrMode) (s : State) : (operand opcode m s).2.a = s.a := by
  rw [onlyTraffic_operand opcode m s]
@[simp] theorem operand_x (opcode : Byte) (m : AddrMode) (s : State) : (operand opcode m s).2.x = s.x := by
  rw [onlyTraffic_operand opcode m s]
@[simp] theorem operand_y (opcode : Byte) (m : AddrMode) (s : State) : (operand opcode m s).2.y = s.y := by
  rw [onlyTraffic_operand opcode m s]
@[simp] theorem operand_sp (opcode : Byte) (m : AddrMode) (s : State) : (operand opcode m s).2.sp = s.sp := by
  rw [onlyTraffic_operand opcode m s]
@[simp] theorem operand_pc (opcode : Byte) (m : AddrMode) (s : State) : (operand opcode m s).2.pc = s.pc := by
  rw [onlyTraffic_operand opcode m s]
@[simp] theorem operand_p (opcode : Byte) (m : AddrMode) (s : State) : (operand opcode m s).2.p = s.p := by
  rw [onlyTraffic_operand opcode m s]
@[simp] theorem operand_cycles (opcode : Byte) (m : AddrMode) (s : State) : (operand opcode m s).2.cycles = s.cycles := by
  rw [onlyTraffic_operand opcode m s]
@[simp] theorem operand_halted (opcode : Byte) (m : AddrMode) (s : State) : (operand opcode m s).2.halted = s.halted := by
  rw [onlyTraffic_operand opcode m s]
@[simp] theorem operand_mem (opcode : Byte) (m : AddrMode) (s : State) : (operand opcode m s).2.mem = s.mem := by
  rw [onlyTraffic_operand opcode m s]
@[simp] theorem operand_cfg (opcode : Byte) (m : AddrMode) (s : State) : (operand opcode m s).2.cfg = s.cfg := by
  rw [onlyTraffic_operand opcode m s]

@[simp] theorem readReg_operand (r : Reg) (opcode : Byte) (m : AddrMode) (s : State) :
    readReg r (operand opcode m s).2 = readReg r s := by cases r <;> simp [readReg]

@[simp] theorem getFlag_operand (f : Flag) (opcode : Byte) (m : AddrMode) (s : State) :
    getFlag f (operand opcode m s).2 = getFlag f s := by simp [getFlag]

/-- The bonus the resolver accrues is one cycle at most, and only for a charged opcode (R113). -/
theorem bonus_indexed (opcode : Byte) (base : Word) (index : Byte) (s : State) :
    (indexed opcode base index s).2.bonus = s.bonus ∨
      chargesPageCross opcode = true ∧ (indexed opcode base index s).2.bonus = s.bonus + 1 := by
  simp only [indexed]
  split
  · rename_i h; simp only [Bool.and_eq_true] at h; exact .inr ⟨h.1, rfl⟩
  · exact .inl rfl

theorem bonus_ea (opcode : Byte) (m : AddrMode) (s : State) :
    (ea opcode m s).2.bonus = s.bonus ∨ chargesPageCross opcode = true ∧ (ea opcode m s).2.bonus = s.bonus + 1 := by
  cases m <;> first
    | exact .inl rfl
    | exact bonus_indexed _ _ _ _

theorem bonus_operand (opcode : Byte) (m : AddrMode) (s : State) :
    (operand opcode m s).2.bonus = s.bonus ∨
      chargesPageCross opcode = true ∧ (operand opcode m s).2.bonus = s.bonus + 1 := by
  cases m <;> first
    | exact .inl rfl
    | exact bonus_ea _ _ _

/-- The resolver's reads are counted, never uncounted. -/
theorem busReads_ea_le (opcode : Byte) (m : AddrMode) (s : State) : s.busReads ≤ (ea opcode m s).2.busReads := by
  have hi : ∀ (b : Word) (x : Byte) (u : State), (indexed opcode b x u).2.busReads = u.busReads := by
    intro b x u; simp only [indexed]; split <;> rfl
  cases m <;> simp [ea, hi, readPtrZp, busReadPair] <;> omega

theorem busReads_operand_le (opcode : Byte) (m : AddrMode) (s : State) :
    s.busReads ≤ (operand opcode m s).2.busReads := by
  cases m <;> first
    | exact Nat.le_refl _
    | exact Nat.le_succ_of_le (busReads_ea_le _ _ _)

/-- A pointer read is two answers, low byte first. -/
theorem busReadPair_eq (l h : Word) (s : State) : busReadPair l h s =
    (joinBytes (busAnswer s [l] h) (busAnswer s [] l),
      { s with
        bus := s.bus ++ [.read l (busAnswer s [] l), .read h (busAnswer s [l] h)]
        busReads := s.busReads + 2
        device := (afterReads [l, h] s).device }) := by
  simp only [busReadPair, busRead_value, busAnswer_busRead]
  refine Prod.ext rfl ?_
  simp only [← List.singleton_append (l := [BusAccess.read h _]), ← List.append_assoc]
  rfl

theorem made_busReadPair (l h : Word) (s : State) :
    Made [.read l (busAnswer s [] l), .read h (busAnswer s [l] h)] s (busReadPair l h s).2 := by
  rw [busReadPair_eq]
  exact ⟨rfl, rfl, rfl⟩

/-! ## Fetch (R83, R84) -/

/-- The opcode read: its byte, and the state after it. -/
theorem fetchOpcode_eq (s : State) : fetchOpcode s = (busAnswer s [] s.pc, { s with
    pc := s.pc + 1
    bonus := 0
    bus := [.read s.pc (busAnswer s [] s.pc)]
    busReads := s.busReads + 1
    device := (afterReads [s.pc] s).device }) := rfl

/-- The operand reads change the record of bus traffic only. -/
theorem onlyTraffic_readBytes (n : Nat) (addr : Word) (s : State) : OnlyTraffic s (readBytes n addr s).2 := by
  induction n generalizing addr s with
  | zero => rfl
  | succ n ih => exact (onlyTraffic_busRead addr s).trans (ih _ _)

theorem readBytes_length (n : Nat) (addr : Word) (s : State) : (readBytes n addr s).1.length = n := by
  induction n generalizing addr s with
  | zero => rfl
  | succ n ih => simp [readBytes, ih]

theorem readBytes_bonus (n : Nat) (addr : Word) (s : State) : (readBytes n addr s).2.bonus = s.bonus := by
  induction n generalizing addr s with
  | zero => rfl
  | succ n ih => simp [readBytes, ih]

theorem readBytes_busReads (n : Nat) (addr : Word) (s : State) :
    (readBytes n addr s).2.busReads = s.busReads + n := by
  induction n generalizing addr s with
  | zero => rfl
  | succ n ih => simp [readBytes, ih]; omega

/-- Everything a fetch can do: an instruction was decoded and the state differs from the start in PC, bonus and traffic, or
the opcode byte has no table entry and only it was read. -/
theorem fetch_cases (s : State) :
    (∃ i t, fetch s = (some i, t) ∧ t.pc = s.pc + 1 ∧ t.bonus = 0 ∧ s.busReads ≤ t.busReads ∧
      t = { s with pc := t.pc, bonus := t.bonus, bus := t.bus, busReads := t.busReads, device := t.device }) ∨
    (fetch s).1 = none ∧ (fetch s).2 = (fetchOpcode s).2 := by
  simp only [fetch]
  split
  · exact .inr ⟨rfl, rfl⟩
  · split
    · rename_i d _ _ i rest _
      refine .inl ⟨i, _, rfl, ?_, ?_, ?_, ?_⟩
      · rw [onlyTraffic_readBytes]; simp [fetchOpcode_eq]
      · rw [readBytes_bonus]; simp [fetchOpcode_eq]
      · rw [readBytes_busReads]; simp [fetchOpcode_eq]; omega
      · have h := onlyTraffic_readBytes (d.length - 1) (fetchOpcode s).2.pc (fetchOpcode s).2
        rw [fetchOpcode_eq] at h ⊢
        unfold OnlyTraffic at h
        rw [h]
    · exact .inr ⟨rfl, rfl⟩

/-! ## Reset (R251) -/

/-- `State.reset` is what `Reset` makes of a created core, so its memory has the canonical form. -/
theorem reset_eq_hostReset_created : hostReset State.created = State.reset := by
  simp [hostReset, busReadWord, busReadPair_eq, busAnswer, busValue, afterReads, isExternal, backing,
    State.created, State.createdOn, Bus.plainRam, busRead, State.reset, writePc, Config.default,
    Memory.read, Memory.unlisted, joinBytes]

theorem wf_reset : Memory.wf State.reset.mem = true := by decide

end Sys2Proof.Machine
end

