-- ==== Sys2Proof/Laws/Meanings.lean ====
section
/-! SUPPORT. One lemma for each shared operation of the instruction families: its result, its flags, its frame and its bus
traffic, said once. -/

namespace Sys2Proof.Machine

/-- An operation that does not touch PC or the cycle counter. -/
structure KeepsClock (s t : State) : Prop where
  pc     : t.pc = s.pc
  cycles : t.cycles = s.cycles

theorem zeroNegativeOf_setZN (v : Byte) (s : State) : ZeroNegativeOf v (setZN v s) := by
  simp [ZeroNegativeOf]

/-- No cell changes where memory is the same list. -/
theorem keepsCells_of_mem {cells : List Word} {s t : State} (h : t.mem = s.mem) : KeepsCells cells s t :=
  fun _ _ => by rw [h]

/-- One bus write changes its own cell alone. -/
theorem keepsCells_busWrite (addr : Word) (v : Byte) (s : State) : KeepsCells [addr] s (busWrite addr v s) := by
  intro k hk
  have hne : k ≠ addr.toNat := fun h => hk addr (by simp) h.symm
  rw [busWrite_mem]
  split
  · exact Memory.read_write_other _ _ hne
  · rfl

theorem stored_busWrite (addr : Word) (v : Byte) (s : State) : Stored addr v s (busWrite addr v s) := by
  intro h
  rw [busWrite_mem, if_pos h, Memory.read_write_same]

/-- Traffic from an equal bus to an equal one is the same traffic. -/
theorem Made.to {l : List BusAccess} {s t u : State} (h : Made l s t) (hbus : u.bus = t.bus)
    (hreads : u.busReads = t.busReads) (hdevice : u.device = t.device) : Made l s u :=
  ⟨hbus.trans h.bus, hreads.trans h.busReads, hdevice.trans h.device⟩

theorem Made.nil (s : State) : Made [] s s := ⟨by simp, rfl, rfl⟩

theorem keepsCells_push8 (v : Byte) (s : State) : KeepsCells [slot s s.sp] s (push8 v s) := by
  rw [← stackAddr_eq]; exact keepsCells_busWrite _ v s

theorem stored_push8 (v : Byte) (s : State) : Stored (slot s s.sp) v s (push8 v s) := by
  rw [← stackAddr_eq]; exact stored_busWrite _ v s

/-- The slots of two values of SP are two addresses. -/
theorem slot_toNat_ne {s : State} {p q : Byte} (h : p ≠ q) : (slot s p).toNat ≠ (slot s q).toNat := by
  intro he
  apply h
  have : slot s p = slot s q := BitVec.eq_of_toNat_eq he
  simp only [slot, BitVec.add_right_inj] at this
  have := congrArg BitVec.toNat this
  simp at this
  apply BitVec.eq_of_toNat_eq
  omega

/-! ## Loads and stores -/

theorem load_spec (r : Reg) (m : AddrMode) (opcode : Byte) (s : State) :
    let o := operand opcode m s
    let t := load r m opcode s
    readReg r t = o.1 ∧ ZeroNegativeOf o.1 t ∧ Frame [r] [.z, .n] [] s t ∧ SameTraffic o.2 t ∧ KeepsClock s t := by
  refine ⟨by simp [load], zeroNegativeOf_setZN _ _, ⟨?_, ?_, keepsCells_of_mem (by simp [load]), by simp [load],
    by simp [load]⟩, ⟨by simp [load], by simp [load], by simp [load], by simp [load]⟩, ⟨by simp [load], by simp [load]⟩⟩
  · intro q hq; simp at hq; simp [load, hq]
  · intro f hf; simp at hf; simp [load, hf]

theorem store_spec (r : Reg) (m : AddrMode) (opcode : Byte) (s : State) :
    let e := ea opcode m s
    let t := store r m opcode s
    Stored e.1 (readReg r s) s t ∧ Frame [] [] [e.1] s t ∧ Made [.write e.1 (readReg r s)] e.2 t ∧
      t.bonus = e.2.bonus ∧ KeepsClock s t := by
  refine ⟨?_, ⟨?_, ?_, ?_, by simp [store], by simp [store]⟩,
    by simpa [store] using made_busWrite (ea opcode m s).1 (readReg r s) (ea opcode m s).2, by simp [store],
    ⟨by simp [store], by simp [store]⟩⟩
  · simpa [store, Stored] using stored_busWrite (ea opcode m s).1 (readReg r s) (ea opcode m s).2
  · intro q _; simp [store]
  · intro f _; simp [store]
  · intro k hk; simpa [store] using keepsCells_busWrite (ea opcode m s).1 (readReg r s) (ea opcode m s).2 k hk

/-! ## Transfers and stack -/

theorem transfer_spec (src dst : Reg) (opcode : Byte) (s : State) :
    let t := transfer src dst opcode s
    readReg dst t = readReg src s ∧ ZeroNegativeOf (readReg src s) t ∧ Frame [dst] [.z, .n] [] s t ∧ SameTraffic s t ∧
      KeepsClock s t := by
  refine ⟨by simp [transfer], zeroNegativeOf_setZN _ _, ⟨?_, ?_, keepsCells_of_mem (by simp [transfer]), by simp [transfer],
    by simp [transfer]⟩, ⟨by simp [transfer], by simp [transfer], by simp [transfer], by simp [transfer]⟩, ⟨by simp [transfer], by simp [transfer]⟩⟩
  · intro q hq; simp at hq; simp [transfer, hq]
  · intro f hf; simp at hf; simp [transfer, hf]

theorem transferPlain_spec (src dst : Reg) (opcode : Byte) (s : State) :
    let t := transferPlain src dst opcode s
    readReg dst t = readReg src s ∧ Frame [dst] [] [] s t ∧ SameTraffic s t ∧ KeepsClock s t := by
  refine ⟨by simp [transferPlain], ⟨?_, ?_, keepsCells_of_mem (by simp [transferPlain]), by simp [transferPlain],
    by simp [transferPlain]⟩, ⟨by simp [transferPlain], by simp [transferPlain], by simp [transferPlain], by simp [transferPlain]⟩,
    ⟨by simp [transferPlain], by simp [transferPlain]⟩⟩
  · intro q hq; simp at hq; simp [transferPlain, hq]
  · intro f _; simp [transferPlain]

@[simp] theorem readReg_push8 (r : Reg) (v : Byte) (s : State) :
    readReg r (push8 v s) = if r = .sp then s.sp - 1 else readReg r s := by cases r <;> rfl

@[simp] theorem readReg_pull8 (r : Reg) (s : State) :
    readReg r (pull8 s).2 = if r = .sp then s.sp + 1 else readReg r s := by cases r <;> rfl

/-- Everything a push does (R136). -/
theorem push8_spec (v : Byte) (s : State) :
    let t := push8 v s
    Stored (slot s s.sp) v s t ∧ t.sp = s.sp - 1 ∧ Frame [.sp] [] [slot s s.sp] s t ∧
      Made [.write (slot s s.sp) v] s t ∧ t.bonus = s.bonus ∧ KeepsClock s t := by
  refine ⟨stored_push8 v s, rfl, ⟨?_, fun _ _ => rfl, keepsCells_push8 v s, rfl, rfl⟩,
    ⟨push8_bus v s, rfl, push8_device v s⟩, rfl, rfl, rfl⟩
  intro q hq; simp at hq; simp [hq]

/-- Everything a pull does (R137). -/
theorem pull8_eq (s : State) : pull8 s = (busAnswer s [] (slot s (s.sp + 1)), { s with
    sp := s.sp + 1
    bus := s.bus ++ [.read (slot s (s.sp + 1)) (busAnswer s [] (slot s (s.sp + 1)))]
    busReads := s.busReads + 1
    device := (afterReads [slot s (s.sp + 1)] s).device }) := by
  refine Prod.ext (pull8_value s) ?_
  have h := pull8_bus s
  rw [← h, ← pull8_device]; rfl

/-- Pushing a word changes its two slots, holds its two bytes, and lowers SP by two (R191, R217). -/
theorem pushWord_spec (w : Word) (s : State) :
    let t := pushWord w s
    Stored (slot s s.sp) (hi w) s t ∧ Stored (slot s (s.sp - 1)) (lo w) s t ∧ t.sp = s.sp - 2 ∧
      Frame [.sp] [] [slot s s.sp, slot s (s.sp - 1)] s t ∧
      Made [.write (slot s s.sp) (hi w), .write (slot s (s.sp - 1)) (lo w)] s t ∧ t.bonus = s.bonus ∧ KeepsClock s t := by
  have hslot : ∀ q, slot (push8 (hi w) s) q = slot s q := fun q => slot_of_cfg rfl q
  have hne : (slot s s.sp).toNat ≠ (slot s (s.sp - 1)).toNat := slot_toNat_ne (by bv_omega)
  obtain ⟨h1, -, h2, h3, -⟩ := push8_spec (hi w) s
  obtain ⟨g1, -, g2, g3, -⟩ := push8_spec (lo w) (push8 (hi w) s)
  simp only [push8_sp, hslot] at g1 g2 g3
  refine ⟨?_, g1, ?_, ⟨?_, fun _ _ => rfl, ?_, rfl, rfl⟩, h3.trans g3 rfl, rfl, rfl, rfl⟩
  · exact fun h => (g2.cells _ (by simpa using hne.symm)).trans (h1 h)
  · simp only [pushWord, push8_sp]; bv_omega
  · intro q hq; simp at hq; simp [pushWord, hq]
  · intro k hk
    exact (g2.cells k (fun a ha => hk a (by simp at ha; simp [ha]))).trans
      (h2.cells k (fun a ha => hk a (by simp at ha; simp [ha])))

/-- Pulling a word reads its two slots, low byte first, and raises SP by two (R192, R219). -/
theorem pullWord_eq (s : State) : pullWord s =
    (joinBytes (busAnswer s [slot s (s.sp + 1)] (slot s (s.sp + 2))) (busAnswer s [] (slot s (s.sp + 1))), { s with
      sp := s.sp + 2
      bus := s.bus ++ [.read (slot s (s.sp + 1)) (busAnswer s [] (slot s (s.sp + 1))),
        .read (slot s (s.sp + 2)) (busAnswer s [slot s (s.sp + 1)] (slot s (s.sp + 2)))]
      busReads := s.busReads + 2
      device := (afterReads [slot s (s.sp + 1), slot s (s.sp + 2)] s).device }) := by
  have hsp : s.sp + 1 + 1 = s.sp + 2 := by bv_omega
  have hslot : ∀ q, slot (pull8 s).2 q = slot s q := fun q => slot_of_cfg rfl q
  have h : pullWord s = (joinBytes (pull8 (pull8 s).2).1 (pull8 s).1, (pull8 (pull8 s).2).2) := rfl
  rw [h]
  refine Prod.ext ?_ ?_
  · simp only [pull8_value, pull8_sp, hslot, hsp, busAnswer_pull8]
  · rw [pull8_eq (pull8 s).2]
    simp only [pull8_sp, hslot, hsp, busAnswer_pull8, pull8_bus, List.append_assoc, List.cons_append, List.nil_append,
      pull8_busReads, afterReads_pull8_device]
    rfl

/-! ## Arithmetic -/

/-- Everything the adder does but its arithmetic (R160). -/
theorem addWithCarry_spec (m : Byte) (s : State) :
    let t := addWithCarry m s
    let c := getFlag .c s
    t.a = sumByte s.a m c ∧ getFlag .c t = decide (255 < wideSum s.a m c) ∧
      getFlag .v t = addOverflow s.a m (sumByte s.a m c) ∧ ZeroNegativeOf t.a t ∧ Frame [.a] [.c, .z, .v, .n] [] s t ∧
      SameTraffic s t ∧ KeepsClock s t := by
  refine ⟨rfl, by simp [addWithCarry], by simp [addWithCarry], zeroNegativeOf_setZN _ _, ⟨?_, ?_, fun _ _ => rfl, rfl, rfl⟩,
    ⟨rfl, rfl, rfl, rfl⟩, ⟨rfl, rfl⟩⟩
  · intro q hq; simp at hq; simp [addWithCarry, hq]
  · intro f hf; simp at hf; simp [addWithCarry, hf]

theorem compareReg_spec (r : Reg) (m : AddrMode) (opcode : Byte) (s : State) :
    let o := operand opcode m s
    let t := compareReg r m opcode s
    getFlag .c t = decide (o.1 ≤ readReg r s) ∧ ZeroNegativeOf (readReg r s - o.1) t ∧ Frame [] [.c, .z, .n] [] s t ∧
      SameTraffic o.2 t ∧ KeepsClock s t := by
  refine ⟨by simp [compareReg], by simpa [compareReg] using zeroNegativeOf_setZN _ _, ⟨?_, ?_, keepsCells_of_mem (by simp [compareReg]),
    by simp [compareReg], by simp [compareReg]⟩, ⟨by simp [compareReg], by simp [compareReg], by simp [compareReg], by simp [compareReg]⟩,
    ⟨by simp [compareReg], by simp [compareReg]⟩⟩
  · intro q _; simp [compareReg]
  · intro f hf; simp at hf; simp [compareReg, hf]

theorem logical_spec (f : Byte → Byte → Byte) (m : AddrMode) (opcode : Byte) (s : State) :
    let o := operand opcode m s
    let t := logical f m opcode s
    t.a = f s.a o.1 ∧ ZeroNegativeOf (f s.a o.1) t ∧ Frame [.a] [.z, .n] [] s t ∧ SameTraffic o.2 t ∧ KeepsClock s t := by
  refine ⟨by simp [logical, writeReg], by simpa [logical] using zeroNegativeOf_setZN _ _,
    ⟨?_, ?_, keepsCells_of_mem (by simp [logical]), by simp [logical], by simp [logical]⟩,
    ⟨by simp [logical], by simp [logical], by simp [logical], by simp [logical]⟩, ⟨by simp [logical], by simp [logical]⟩⟩
  · intro q hq; simp at hq; simp [logical, hq]
  · intro g hg; simp at hg; simp [logical, hg]

theorem bitTest_spec (m : AddrMode) (opcode : Byte) (s : State) :
    let o := operand opcode m s
    let t := bitTest m opcode s
    getFlag .z t = (s.a &&& o.1 == 0) ∧ getFlag .n t = o.1.getLsbD 7 ∧ getFlag .v t = o.1.getLsbD 6 ∧
      Frame [] [.z, .v, .n] [] s t ∧ SameTraffic o.2 t ∧ KeepsClock s t := by
  refine ⟨by simp [bitTest], by simp [bitTest], by simp [bitTest],
    ⟨?_, ?_, keepsCells_of_mem (by simp [bitTest]), by simp [bitTest], by simp [bitTest]⟩,
    ⟨by simp [bitTest], by simp [bitTest], by simp [bitTest], by simp [bitTest]⟩, ⟨by simp [bitTest], by simp [bitTest]⟩⟩
  · intro q _; simp [bitTest]
  · intro g hg; simp at hg; simp [bitTest, hg]

/-! ## Increments and shifts -/

theorem incByte_toNat (v : Byte) : (incByte v).toNat = (v.toNat + 1) % 256 := by simp [incByte]

theorem decByte_toNat (v : Byte) : (decByte v).toNat = (v.toNat + 255) % 256 := by
  simp [decByte, BitVec.toNat_sub]; omega

theorem stepReg_spec (f : Byte → Byte) (r : Reg) (opcode : Byte) (s : State) :
    let t := stepReg f r opcode s
    readReg r t = f (readReg r s) ∧ ZeroNegativeOf (f (readReg r s)) t ∧ Frame [r] [.z, .n] [] s t ∧ SameTraffic s t ∧
      KeepsClock s t := by
  refine ⟨by simp [stepReg], zeroNegativeOf_setZN _ _, ⟨?_, ?_, keepsCells_of_mem (by simp [stepReg]), by simp [stepReg],
    by simp [stepReg]⟩, ⟨by simp [stepReg], by simp [stepReg], by simp [stepReg], by simp [stepReg]⟩, ⟨by simp [stepReg], by simp [stepReg]⟩⟩
  · intro q hq; simp at hq; simp [stepReg, hq]
  · intro g hg; simp at hg; simp [stepReg, hg]

/-- Reading an address and writing it once: the shape of every read-modify-write operation (R170, R176). -/
theorem readThenWrite_spec (m : AddrMode) (opcode new : Byte) (s : State) :
    let e := ea opcode m s
    let old := busAnswer e.2 [] e.1
    let t := busWrite e.1 new (busRead e.1 e.2).2
    Stored e.1 new s t ∧ KeepsCells [e.1] s t ∧ Made [.read e.1 old, .write e.1 new] e.2 t ∧ t.bonus = e.2.bonus := by
  refine ⟨?_, ?_, (made_busRead _ _).trans (made_busWrite _ _ _) rfl, by simp⟩
  · simpa [Stored] using stored_busWrite (ea opcode m s).1 new (busRead (ea opcode m s).1 (ea opcode m s).2).2
  · intro k hk
    simpa using keepsCells_busWrite (ea opcode m s).1 new (busRead (ea opcode m s).1 (ea opcode m s).2).2 k hk

theorem stepMem_spec (f : Byte → Byte) (m : AddrMode) (opcode : Byte) (s : State) :
    let e := ea opcode m s
    let old := busAnswer e.2 [] e.1
    let t := stepMem f m opcode s
    Stored e.1 (f old) s t ∧ ZeroNegativeOf (f old) t ∧ Frame [] [.z, .n] [e.1] s t ∧
      Made [.read e.1 old, .write e.1 (f old)] e.2 t ∧ t.bonus = e.2.bonus ∧ KeepsClock s t := by
  obtain ⟨h1, h2, h3, h4⟩ := readThenWrite_spec m opcode (f (busAnswer (ea opcode m s).2 [] (ea opcode m s).1)) s
  refine ⟨h1, zeroNegativeOf_setZN _ _, ⟨?_, ?_, h2, by simp [stepMem], by simp [stepMem]⟩, h3.to rfl rfl rfl, h4,
    ⟨by simp [stepMem], by simp [stepMem]⟩⟩
  · intro q _; simp [stepMem]
  · intro g hg; simp at hg; simp [stepMem, hg]

theorem shiftA_spec (f : Bool → Byte → Byte × Bool) (opcode : Byte) (s : State) :
    let r := f (getFlag .c s) s.a
    let t := shiftA f opcode s
    t.a = r.1 ∧ getFlag .c t = r.2 ∧ ZeroNegativeOf r.1 t ∧ Frame [.a] [.c, .z, .n] [] s t ∧ SameTraffic s t ∧
      KeepsClock s t := by
  refine ⟨by simp [shiftA, writeReg], by simp [shiftA], zeroNegativeOf_setZN _ _,
    ⟨?_, ?_, keepsCells_of_mem (by simp [shiftA]), by simp [shiftA], by simp [shiftA]⟩,
    ⟨by simp [shiftA], by simp [shiftA], by simp [shiftA], by simp [shiftA]⟩, ⟨by simp [shiftA], by simp [shiftA]⟩⟩
  · intro q hq; simp at hq; simp [shiftA, hq]
  · intro g hg; simp at hg; simp [shiftA, hg]

theorem shiftMem_spec (f : Bool → Byte → Byte × Bool) (m : AddrMode) (opcode : Byte) (s : State) :
    let e := ea opcode m s
    let old := busAnswer e.2 [] e.1
    let r := f (getFlag .c s) old
    let t := shiftMem f m opcode s
    Stored e.1 r.1 s t ∧ getFlag .c t = r.2 ∧ ZeroNegativeOf r.1 t ∧ Frame [] [.c, .z, .n] [e.1] s t ∧
      Made [.read e.1 old, .write e.1 r.1] e.2 t ∧ t.bonus = e.2.bonus ∧ KeepsClock s t := by
  obtain ⟨h1, h2, h3, h4⟩ := readThenWrite_spec m opcode
    (f (getFlag .c s) (busAnswer (ea opcode m s).2 [] (ea opcode m s).1)).1 s
  have hc : getFlag .c (busRead (ea opcode m s).1 (ea opcode m s).2).2 = getFlag .c s := by simp
  have heq : shiftMem f m opcode s =
      setZN (f (getFlag .c s) (busAnswer (ea opcode m s).2 [] (ea opcode m s).1)).1
        (writeFlag .c (f (getFlag .c s) (busAnswer (ea opcode m s).2 [] (ea opcode m s).1)).2
          (busWrite (ea opcode m s).1 (f (getFlag .c s) (busAnswer (ea opcode m s).2 [] (ea opcode m s).1)).1
            (busRead (ea opcode m s).1 (ea opcode m s).2).2)) := by
    simp only [shiftMem, hc, busRead_value]
  intro e old r t
  have ht : t = _ := heq
  rw [ht]
  refine ⟨h1, by simp [r, old, e], zeroNegativeOf_setZN _ _, ⟨?_, ?_, h2, by simp, by simp⟩, h3.to rfl rfl rfl, h4, ⟨by simp, by simp⟩⟩
  · intro q _; simp
  · intro g hg; simp at hg; simp [hg]

/-! ## Control flow and system -/

/-- What a branch leaves alone (R193). -/
theorem branch_spec (f : Flag) (value : Bool) (off opcode : Byte) (s : State) :
    let t := branch f value (.rel off) opcode s
    let next := s.pc + 1
    (getFlag f s = value → t.pc = next + sext off ∧
      t.bonus = s.bonus + if pageCrossed next (next + sext off) then 2 else 1) ∧
    (getFlag f s ≠ value → t.pc = next ∧ t.bonus = s.bonus) ∧
    Frame [] [] [] s t ∧ Made [] s t ∧ t.cycles = s.cycles := by
  by_cases h : getFlag f s = value
  · have he : branch f value (.rel off) opcode s = writePc (s.pc + 1 + sext off)
        (addBonus (if pageCrossed (s.pc + 1) (s.pc + 1 + sext off) then 2 else 1) s) := by
      simp only [branch, operand, h, beq_self_eq_true, ↓reduceIte]
      rfl
    simp only [he]
    exact ⟨fun _ => ⟨rfl, rfl⟩, fun hn => absurd h hn, ⟨fun q _ => by simp, fun _ _ => rfl, fun _ _ => rfl, rfl, rfl⟩,
      (Made.nil s).to rfl rfl rfl, rfl⟩
  · have he : branch f value (.rel off) opcode s = writePc (s.pc + 1) s := by
      simp only [branch, operand, beq_iff_eq, h, ↓reduceIte]
    simp only [he]
    exact ⟨fun hp => absurd hp h, fun _ => ⟨rfl, rfl⟩, ⟨fun q _ => by simp, fun _ _ => rfl, fun _ _ => rfl, rfl, rfl⟩,
      (Made.nil s).to rfl rfl rfl, rfl⟩

theorem toggle_spec (f : Flag) (value : Bool) (opcode : Byte) (s : State) :
    let t := toggle f value opcode s
    getFlag f t = value ∧ Frame [] [f] [] s t ∧ SameTraffic s t ∧ KeepsClock s t := by
  refine ⟨by simp [toggle], ⟨?_, ?_, fun _ _ => rfl, rfl, rfl⟩, ⟨rfl, rfl, rfl, rfl⟩, ⟨rfl, rfl⟩⟩
  · intro q _; simp [toggle]
  · intro g hg; simp at hg; simp [toggle, hg]

/-! ## Jumps, calls, returns and the BRK entry -/

/-- JMP ends at the resolved address, and does nothing but the resolver's reads (R190). -/
theorem jump_spec (m : AddrMode) (opcode : Byte) (s : State) :
    let e := ea opcode m s
    let t := jump m opcode s
    t.pc = e.1 ∧ Frame [] [] [] s t ∧ SameTraffic e.2 t ∧ t.cycles = s.cycles := by
  refine ⟨rfl, ⟨fun _ _ => ?_, fun _ _ => ?_, keepsCells_of_mem ?_, ?_, ?_⟩, ⟨rfl, rfl, rfl, rfl⟩, ?_⟩ <;> simp [jump]

/-- JSR is a push of the address of its last byte and a jump (R191). -/
theorem call_eq (w : Word) (opcode : Byte) (s : State) :
    call (.abs w) opcode s = writePc w (pushWord (s.pc + 1) s) := rfl

/-- RTS is a pull and a jump one past the pulled word (R192). -/
theorem returnFromCall_eq (opcode : Byte) (s : State) : returnFromCall opcode s =
    writePc (joinBytes (busAnswer s [slot s (s.sp + 1)] (slot s (s.sp + 2))) (busAnswer s [] (slot s (s.sp + 1))) + 1) (pullWord s).2 := by
  simp only [returnFromCall, pullWord_eq]

/-- RTI is three pulls: Status, PC low, PC high (R219). -/
theorem returnFromInterrupt_eq (s : State) :
    let a := slot s (s.sp + 1)
    let b := slot s (s.sp + 2)
    let c := slot s (s.sp + 3)
    returnFromInterrupt s = { s with
      p := restoredStatus (busAnswer s [] a)
      sp := s.sp + 3
      pc := joinBytes (busAnswer s [a, b] c) (busAnswer s [a] b)
      bus := s.bus ++ [.read a (busAnswer s [] a), .read b (busAnswer s [a] b), .read c (busAnswer s [a, b] c)]
      busReads := s.busReads + 3
      device := (afterReads [a, b, c] s).device } := by
  intro a b c
  have h2 : s.sp + 1 + 1 = s.sp + 2 := by bv_omega
  have h3 : s.sp + 1 + 2 = s.sp + 3 := by bv_omega
  have key : ∀ u, u = { (pull8 s).2 with p := restoredStatus (pull8 s).1 } → returnFromInterrupt s =
      writePc (pullWord u).1 (pullWord u).2 := by rintro _ rfl; rfl
  obtain ⟨u, hu⟩ : ∃ u : State, u = { (pull8 s).2 with p := restoredStatus (pull8 s).1 } := ⟨_, rfl⟩
  have hslot : ∀ q, slot u q = slot s q := fun q => slot_of_cfg (by rw [hu]; rfl) q
  have hsame : SameBus (pull8 s).2 u := ⟨by rw [hu], by rw [hu], by rw [hu], by rw [hu]⟩
  have hsp : u.sp = s.sp + 1 := by rw [hu]; rfl
  have hbus : u.bus = s.bus ++ [.read a (busAnswer s [] a)] := by rw [hu]; exact pull8_bus s
  have hreads : u.busReads = s.busReads + 1 := by rw [hu]; rfl
  rw [key u hu, pullWord_eq]
  simp only [hslot, hsame.busAnswer, hsame.afterReads_device, hsp, h2, h3, busAnswer_pull8, afterReads_pull8_device, hbus,
    hreads, List.append_assoc, List.cons_append, List.nil_append, Nat.add_assoc, Nat.reduceAdd]
  rw [hu, pull8_value]
  rfl

/-- Pushing a word and then a byte: three slots, high byte, low byte, byte (R217). -/
theorem pushWordByte_spec (w : Word) (v : Byte) (s : State) :
    let t := push8 v (pushWord w s)
    Stored (slot s s.sp) (hi w) s t ∧ Stored (slot s (s.sp - 1)) (lo w) s t ∧ Stored (slot s (s.sp - 2)) v s t ∧
      t.sp = s.sp - 3 ∧ Frame [.sp] [] [slot s s.sp, slot s (s.sp - 1), slot s (s.sp - 2)] s t ∧
      Made [.write (slot s s.sp) (hi w), .write (slot s (s.sp - 1)) (lo w), .write (slot s (s.sp - 2)) v] s t ∧
      t.bonus = s.bonus ∧ KeepsClock s t := by
  obtain ⟨w1, w2, w3, w4, w5, w6, w7⟩ := pushWord_spec w s
  generalize pushWord w s = u at *
  obtain ⟨p1, p2, p3, p4, p5, p6⟩ := push8_spec v u
  generalize push8 v u = t at *
  have hslot : ∀ q, slot u q = slot s q := fun q => slot_of_cfg w4.cfg q
  rw [hslot, w3] at p1 p3 p4
  have n1 : (slot s s.sp).toNat ≠ (slot s (s.sp - 2)).toNat := slot_toNat_ne (by bv_omega)
  have n2 : (slot s (s.sp - 1)).toNat ≠ (slot s (s.sp - 2)).toNat := slot_toNat_ne (by bv_omega)
  refine ⟨?_, ?_, ?_, ?_, ⟨?_, ?_, ?_, p3.halted.trans w4.halted, p3.cfg.trans w4.cfg⟩, w5.trans p4 w4.cfg, p5.trans w6,
    p6.pc.trans w7.pc, p6.cycles.trans w7.cycles⟩
  · exact fun h => (p3.cells _ (by simpa using n1.symm)).trans (w1 h)
  · exact fun h => (p3.cells _ (by simpa using n2.symm)).trans (w2 h)
  · exact fun h => p1 (by rw [w4.cfg]; exact h)
  · rw [p2, w3]; bv_omega
  · exact fun q hq => (p3.regs q hq).trans (w4.regs q hq)
  · exact fun f hf => (p3.flags f hf).trans (w4.flags f hf)
  · intro k hk
    exact (p3.cells k (fun a ha => hk a (by simp at ha; simp [ha]))).trans
      (w4.cells k (fun a ha => hk a (by simp at ha; rcases ha with rfl | rfl <;> simp)))

/-- BRK's entry is three pushes, the write of I, and a jump through the vector (R217). -/
theorem enterInterrupt_eq (s : State) :
    enterInterrupt s =
      writePc (busReadWord 0xFFFE (writeFlag .i true (push8 (pushedStatus s.p) (pushWord (s.pc + 1) s)))).1
        (busReadWord 0xFFFE (writeFlag .i true (push8 (pushedStatus s.p) (pushWord (s.pc + 1) s)))).2 := by
  simp only [enterInterrupt]

/-- A write anywhere leaves every cell outside plain RAM (R41, R52). -/
theorem busWrite_outside_ram (addr b : Word) (v : Byte) {s : State} (h : isRam s.cfg b = false) :
    Memory.read (busWrite addr v s).mem b.toNat = Memory.read s.mem b.toNat := by
  rw [busWrite_mem]
  split
  · rename_i hr
    exact Memory.read_write_other _ _ fun he => by
      rw [BitVec.eq_of_toNat_eq he, hr] at h; cases h
  · rfl

/-- Everything BRK's entry does (R217, R236). -/
theorem enterInterrupt_spec (s : State) :
    let t := enterInterrupt s
    let ret := s.pc + 1
    let pushes : List BusAccess := [.write (slot s s.sp) (hi ret), .write (slot s (s.sp - 1)) (lo ret),
      .write (slot s (s.sp - 2)) (pushedStatus s.p)]
    let vector : State := { s with mem := t.mem, device := (afterAccesses pushes s).device }
    let l := busAnswer vector [] 0xFFFE
    let h := busAnswer vector [0xFFFE] 0xFFFF
    t.pc = joinBytes h l ∧ Stored (slot s s.sp) (hi ret) s t ∧ Stored (slot s (s.sp - 1)) (lo ret) s t ∧
    Stored (slot s (s.sp - 2)) (pushedStatus s.p) s t ∧ t.sp = s.sp - 3 ∧ getFlag .i t = true ∧
    Frame [.sp] [.i] [slot s s.sp, slot s (s.sp - 1), slot s (s.sp - 2)] s t ∧
    Made (pushes ++ [.read 0xFFFE l, .read 0xFFFF h]) s t ∧ t.bonus = s.bonus ∧ t.cycles = s.cycles := by
  obtain ⟨p1, p2, p3, p4, p5, p6, p7, p8⟩ := pushWordByte_spec (s.pc + 1) (pushedStatus s.p) s
  rw [enterInterrupt_eq]
  generalize push8 (pushedStatus s.p) (pushWord (s.pc + 1) s) = u at *
  intro t ret pushes vector l h
  have hsame : SameBus vector (writeFlag .i true u) := ⟨p5.cfg, rfl, p6.busReads, p6.device⟩
  have hreads := made_busReadPair 0xFFFE 0xFFFF (writeFlag .i true u)
  rw [hsame.busAnswer, hsame.busAnswer] at hreads
  refine ⟨?_, p1, p2, p3, p4, ?_, ⟨?_, ?_, p5.cells, p5.halted, p5.cfg⟩,
    ((p6.to (u := writeFlag .i true u) rfl rfl rfl).trans hreads p5.cfg).to rfl rfl rfl, p7, p8.cycles⟩
  · simp only [t, busReadWord, busReadPair_eq, writePc_pc]
    rw [hsame.busAnswer, hsame.busAnswer]
    rfl
  · exact (getFlag_writeFlag .i .i true u).trans (by simp)
  · exact fun q hq => (by cases q <;> rfl : readReg q _ = readReg q u).trans (p5.regs q hq)
  · intro f hf
    have hi : f ≠ .i := by simpa using hf
    exact ((getFlag_writeFlag .i f true u).trans (by simp [hi])).trans (p5.flags f (by simp))

/-! ## Retiring (R86, R87) -/

/-- What retiring adds to an operation: its cost, and the length advance. -/
theorem retire_eq (i : Instr) (op : Byte → State → State) (s : State) :
    retire i op s = .next { op i.opcode s with
      pc := (op i.opcode s).pc + BitVec.ofNat 16 (i.length - 1)
      cycles := (op i.opcode s).cycles + baseCycles (op i.opcode s).cfg i.opcode + (op i.opcode s).bonus } := rfl

theorem retireJump_eq (i : Instr) (op : Byte → State → State) (s : State) :
    retireJump i op s = .next { op i.opcode s with
      cycles := (op i.opcode s).cycles + baseCycles (op i.opcode s).cfg i.opcode + (op i.opcode s).bonus } := rfl

end Sys2Proof.Machine
end

