-- ==== Sys2Proof/Laws/Exec.lean ====
section
/-! SUPPORT. What exec does, said once for all 151 constructors by mnemonic and addressing mode, so that a proof about a
family splits on its mnemonics and not on every constructor. -/

namespace Sys2Proof.Machine

/-- The operation each mnemonic runs in an addressing mode. -/
def effect (op : Mnemonic) (mode : Option AddrMode) : Byte → State → State :=
  match op, mode with
  | .lda, some m => load .a m
  | .ldx, some m => load .x m
  | .ldy, some m => load .y m
  | .sta, some m => store .a m
  | .stx, some m => store .x m
  | .sty, some m => store .y m
  | .tax, _ => transfer .a .x
  | .tay, _ => transfer .a .y
  | .txa, _ => transfer .x .a
  | .tya, _ => transfer .y .a
  | .tsx, _ => transfer .sp .x
  | .txs, _ => transferPlain .x .sp
  | .pha, _ => pushA
  | .php, _ => pushP
  | .pla, _ => pullA
  | .plp, _ => pullP
  | .and, some m => logical (· &&& ·) m
  | .ora, some m => logical (· ||| ·) m
  | .eor, some m => logical (· ^^^ ·) m
  | .bit, some m => bitTest m
  | .adc, some m => adc m
  | .sbc, some m => sbc m
  | .cmp, some m => compareReg .a m
  | .cpx, some m => compareReg .x m
  | .cpy, some m => compareReg .y m
  | .inc, some m => stepMem incByte m
  | .dec, some m => stepMem decByte m
  | .inx, _ => stepReg incByte .x
  | .iny, _ => stepReg incByte .y
  | .dex, _ => stepReg decByte .x
  | .dey, _ => stepReg decByte .y
  | .asl, none => shiftA aslByte
  | .lsr, none => shiftA lsrByte
  | .rol, none => shiftA rolByte
  | .ror, none => shiftA rorByte
  | .asl, some m => shiftMem aslByte m
  | .lsr, some m => shiftMem lsrByte m
  | .rol, some m => shiftMem rolByte m
  | .ror, some m => shiftMem rorByte m
  | .jmp, some m => jump m
  | .jsr, some m => call m
  | .rts, _ => returnFromCall
  | .bcc, some m => branch .c false m
  | .bcs, some m => branch .c true m
  | .beq, some m => branch .z true m
  | .bne, some m => branch .z false m
  | .bmi, some m => branch .n true m
  | .bpl, some m => branch .n false m
  | .bvc, some m => branch .v false m
  | .bvs, some m => branch .v true m
  | .clc, _ => toggle .c false
  | .cld, _ => toggle .d false
  | .cli, _ => toggle .i false
  | .clv, _ => toggle .v false
  | .sec, _ => toggle .c true
  | .sed, _ => toggle .d true
  | .sei, _ => toggle .i true
  | .brk, _ => fun _ s => enterInterrupt s
  | .nop, _ => fun _ s => s
  | .rti, _ => fun _ s => returnFromInterrupt s
  | _, none => fun _ s => s

/-- The operations that load PC (R87). -/
def loadsPc : Mnemonic → Bool
  | .jmp | .jsr | .rts | .rti | .brk | .bcc | .bcs | .beq | .bne | .bmi | .bpl | .bvc | .bvs => true
  | _ => false

/-- ACCOUNT, and ADVANCE where the operation does not load PC (R86, R87). -/
def finish (i : Instr) (s : State) : State := if loadsPc i.mnemonic then account i s else advance i (account i s)

/-- exec, said once. -/
theorem exec_eq (i : Instr) (s : State) :
    exec i s = .next (finish i (effect i.mnemonic i.addrMode i.opcode s)) := by
  cases i <;> rfl

/-- What holds of every shared operation holds of every effect: the case split over the mnemonics, made once. -/
theorem effect_induction (P : (State → State) → Prop) (o : Byte) (op : Mnemonic) (mode : Option AddrMode)
    (hload : ∀ r m, P (load r m o)) (hstore : ∀ r m, P (store r m o)) (htr : ∀ src dst, P (transfer src dst o))
    (htp : ∀ src dst, P (transferPlain src dst o)) (hpa : P (pushA o)) (hpp : op = .php → P (pushP o)) (hpla : P (pullA o))
    (hplp : P (pullP o)) (hlog : ∀ f m, P (logical f m o)) (hbit : ∀ m, P (bitTest m o)) (hadc : ∀ m, P (adc m o))
    (hsbc : ∀ m, P (sbc m o)) (hcmp : ∀ r m, P (compareReg r m o)) (hsm : ∀ f m, P (stepMem f m o))
    (hsr : ∀ f r, P (stepReg f r o)) (hsa : ∀ f, P (shiftA f o)) (hshm : ∀ f m, P (shiftMem f m o)) (hj : ∀ m, P (jump m o))
    (hc : ∀ m, P (call m o)) (hr : P (returnFromCall o))
    (hb : ∀ f v m, f ∈ [Flag.c, .z, .v, .n] → P (branch f v m o)) (ht : ∀ f v, P (toggle f v o))
    (hbrk : op = .brk → P enterInterrupt) (hid : P id) (hrti : P returnFromInterrupt) : P (effect op mode o) := by
  cases op
  case lda => cases mode with
    | none => exact hid
    | some m => exact hload .a _
  case ldx => cases mode with
    | none => exact hid
    | some m => exact hload .x _
  case ldy => cases mode with
    | none => exact hid
    | some m => exact hload .y _
  case sta => cases mode with
    | none => exact hid
    | some m => exact hstore .a _
  case stx => cases mode with
    | none => exact hid
    | some m => exact hstore .x _
  case sty => cases mode with
    | none => exact hid
    | some m => exact hstore .y _
  case tax => exact htr .a .x
  case tay => exact htr .a .y
  case txa => exact htr .x .a
  case tya => exact htr .y .a
  case tsx => exact htr .sp .x
  case txs => exact htp .x .sp
  case pha => exact hpa
  case php => exact hpp rfl
  case pla => exact hpla
  case plp => exact hplp
  case and => cases mode with
    | none => exact hid
    | some m => exact hlog _ _
  case ora => cases mode with
    | none => exact hid
    | some m => exact hlog _ _
  case eor => cases mode with
    | none => exact hid
    | some m => exact hlog _ _
  case bit => cases mode with
    | none => exact hid
    | some m => exact hbit _
  case adc => cases mode with
    | none => exact hid
    | some m => exact hadc _
  case sbc => cases mode with
    | none => exact hid
    | some m => exact hsbc _
  case cmp => cases mode with
    | none => exact hid
    | some m => exact hcmp .a _
  case cpx => cases mode with
    | none => exact hid
    | some m => exact hcmp .x _
  case cpy => cases mode with
    | none => exact hid
    | some m => exact hcmp .y _
  case inc => cases mode with
    | none => exact hid
    | some m => exact hsm _ _
  case dec => cases mode with
    | none => exact hid
    | some m => exact hsm _ _
  case inx => exact hsr _ .x
  case iny => exact hsr _ .y
  case dex => exact hsr _ .x
  case dey => exact hsr _ .y
  case asl => cases mode with
    | none => exact hsa aslByte
    | some m => exact hshm aslByte m
  case lsr => cases mode with
    | none => exact hsa lsrByte
    | some m => exact hshm lsrByte m
  case rol => cases mode with
    | none => exact hsa rolByte
    | some m => exact hshm rolByte m
  case ror => cases mode with
    | none => exact hsa rorByte
    | some m => exact hshm rorByte m
  case jmp => cases mode with
    | none => exact hid
    | some m => exact hj m
  case jsr => cases mode with
    | none => exact hid
    | some m => exact hc m
  case rts => exact hr
  case bcc => cases mode with
    | none => exact hid
    | some m => exact hb .c false m (by simp)
  case bcs => cases mode with
    | none => exact hid
    | some m => exact hb .c true m (by simp)
  case beq => cases mode with
    | none => exact hid
    | some m => exact hb .z true m (by simp)
  case bne => cases mode with
    | none => exact hid
    | some m => exact hb .z false m (by simp)
  case bmi => cases mode with
    | none => exact hid
    | some m => exact hb .n true m (by simp)
  case bpl => cases mode with
    | none => exact hid
    | some m => exact hb .n false m (by simp)
  case bvc => cases mode with
    | none => exact hid
    | some m => exact hb .v false m (by simp)
  case bvs => cases mode with
    | none => exact hid
    | some m => exact hb .v true m (by simp)
  case clc => exact ht .c false
  case cld => exact ht .d false
  case cli => exact ht .i false
  case clv => exact ht .v false
  case sec => exact ht .c true
  case sed => exact ht .d true
  case sei => exact ht .i true
  case brk => exact hbrk rfl
  case nop => exact hid
  case rti => exact hrti

/-! ## What retiring leaves of the operation's own effect -/

theorem finish_eq (i : Instr) (t : State) : finish i t = { t with pc := (finish i t).pc, cycles := (finish i t).cycles } := by
  unfold finish; split <;> rfl

@[simp] theorem finish_a (i : Instr) (t : State) : (finish i t).a = t.a := by rw [finish_eq]
@[simp] theorem finish_x (i : Instr) (t : State) : (finish i t).x = t.x := by rw [finish_eq]
@[simp] theorem finish_y (i : Instr) (t : State) : (finish i t).y = t.y := by rw [finish_eq]
@[simp] theorem finish_sp (i : Instr) (t : State) : (finish i t).sp = t.sp := by rw [finish_eq]
@[simp] theorem finish_p (i : Instr) (t : State) : (finish i t).p = t.p := by rw [finish_eq]
@[simp] theorem finish_halted (i : Instr) (t : State) : (finish i t).halted = t.halted := by rw [finish_eq]
@[simp] theorem finish_bonus (i : Instr) (t : State) : (finish i t).bonus = t.bonus := by rw [finish_eq]
@[simp] theorem finish_mem (i : Instr) (t : State) : (finish i t).mem = t.mem := by rw [finish_eq]
@[simp] theorem finish_bus (i : Instr) (t : State) : (finish i t).bus = t.bus := by rw [finish_eq]
@[simp] theorem finish_busReads (i : Instr) (t : State) : (finish i t).busReads = t.busReads := by rw [finish_eq]
@[simp] theorem finish_device (i : Instr) (t : State) : (finish i t).device = t.device := by rw [finish_eq]
@[simp] theorem finish_cfg (i : Instr) (t : State) : (finish i t).cfg = t.cfg := by rw [finish_eq]
@[simp] theorem readReg_finish (r : Reg) (i : Instr) (t : State) : readReg r (finish i t) = readReg r t := by
  cases r <;> simp [readReg]
@[simp] theorem getFlag_finish (f : Flag) (i : Instr) (t : State) : getFlag f (finish i t) = getFlag f t := by
  simp [getFlag]

theorem Frame.finish {regs : List Reg} {flags : List Flag} {cells : List Word} {s t : State} (i : Instr)
    (h : Frame regs flags cells s t) : Frame regs flags cells s (finish i t) :=
  ⟨fun r hr => by simp [h.regs r hr], fun f hf => by simp [h.flags f hf], fun k hk => by simp [h.cells k hk],
    by simp [h.halted], by simp [h.cfg]⟩

theorem SameTraffic.finish {u t : State} (i : Instr) (h : SameTraffic u t) : SameTraffic u (finish i t) :=
  ⟨by simp [h.bus], by simp [h.busReads], by simp [h.device], by simp [h.bonus]⟩

theorem Made.finish {l : List BusAccess} {s t : State} (i : Instr) (h : Made l s t) : Made l s (finish i t) :=
  h.to (by simp) (by simp) (by simp)

@[simp] theorem zeroNegativeOf_finish (v : Byte) (i : Instr) (t : State) :
    ZeroNegativeOf v (finish i t) ↔ ZeroNegativeOf v t := by simp [ZeroNegativeOf]

@[simp] theorem stored_finish (addr : Word) (v : Byte) (i : Instr) (s t : State) :
    Stored addr v s (finish i t) ↔ Stored addr v s t := by simp [Stored]

theorem charged_finish {s t : State} (i : Instr) (hcycles : t.cycles = s.cycles) (hcfg : t.cfg = s.cfg) :
    Charged i s (finish i t) := by
  unfold Charged Machine.finish; split <;> simp [account, advance, hcycles, hcfg]

theorem advanced_finish {s t : State} {i : Instr} (h : loadsPc i.mnemonic = false) (hpc : t.pc = s.pc) :
    Advanced i s (finish i t) := by
  simp [Advanced, Machine.finish, h, account, advance, hpc]

theorem finish_pc_of_loadsPc {i : Instr} (h : loadsPc i.mnemonic = true) (t : State) : (finish i t).pc = t.pc := by
  simp [finish, h, account]

theorem finish_pc (i : Instr) (t : State) :
    (finish i t).pc = if loadsPc i.mnemonic then t.pc else t.pc + BitVec.ofNat 16 (i.length - 1) := by
  unfold finish; split <;> simp [account, advance]

/-! ## What a Step can do -/

/-- Everything a Step can do: nothing while halted; an instruction's effect from a fetched state; the illegal-opcode
exception. -/
theorem step_cases {s t : State} (h : step s = .next t) :
    s.halted = true ∧ t = s ∨
    s.halted = false ∧ (∃ i u, t = finish i (effect i.mnemonic i.addrMode i.opcode u) ∧ u.pc = s.pc + 1 ∧ u.bonus = 0 ∧
      s.busReads ≤ u.busReads ∧
      u = { s with pc := u.pc, bonus := u.bonus, bus := u.bus, busReads := u.busReads, device := u.device }) ∨
    s.halted = false ∧ t = takeIllegalOpcode (fetchOpcode s).2 := by
  unfold step at h
  split at h
  · exact .inl ⟨‹_›, by injection h with h; exact h.symm⟩
  · rename_i hh
    have hh : s.halted = false := by simpa using hh
    rcases fetch_cases s with ⟨i, u, hf, hpc, hbonus, hreads, hu⟩ | ⟨hnone, hstate⟩
    · simp only [hf, exec_eq] at h
      injection h with h
      exact .inr (.inl ⟨hh, i, u, h.symm, hpc, hbonus, hreads, hu⟩)
    · split at h
      · rename_i hf; simp [hf] at hnone
      · rename_i hf
        injection h with h
        exact .inr (.inr ⟨hh, by rw [← h, ← hstate, hf]⟩)

end Sys2Proof.Machine
end

