-- ==== Sys2Proof/Laws/PerInstr.lean ====
section
/-! SUPPORT. The per-instruction family WellFormedRow: every constructor's opcode byte has a populated, well-formed entry
(R71) that says the instruction's mnemonic, mode tag and length. -/

namespace Sys2Proof.Laws.WellFormedRow

open Sys2Proof.Machine

/-- The instruction as syntax agrees with its row of the opcode table. -/
def Statement (i : Instr) : Prop := i.wellFormed = true

/-- What the table says at an opcode byte, against four columns. -/
def rowAgrees (opcode : Byte) (op : Mnemonic) (mode : ModeTag) (length : Nat) : Bool :=
  match table opcode with
  | some d => d.wellFormed && d.op == op && d.mode == mode && d.length == length
  | none => false

/-- All mnemonics, in the order of the rules. -/
def mnemonics : List Mnemonic := [
  .lda, .ldx, .ldy, .sta, .stx, .sty, .tax, .tay, .txa, .tya, .tsx, .txs, .pha, .php,
  .pla, .plp, .and, .ora, .eor, .bit, .adc, .sbc, .cmp, .cpx, .cpy, .inc, .dec, .inx,
  .iny, .dex, .dey, .asl, .lsr, .rol, .ror, .jmp, .jsr, .rts, .bcc, .bcs, .beq, .bne,
  .bmi, .bpl, .bvc, .bvs, .clc, .cld, .cli, .clv, .sec, .sed, .sei, .brk, .nop, .rti]

/-- The opcode table agrees with every row of every rule's encoding table. -/
theorem rules_agree : (mnemonics.all fun op => (ruleRows op).all fun d =>
    rowAgrees d.opcode op d.mode d.length) = true := by decide +kernel

theorem mnemonics_complete (op : Mnemonic) : op ∈ mnemonics := by cases op <;> decide

/-- An instruction's statement from the row of its rule's table. -/
theorem of_row {i : Instr} {op : Mnemonic} {d : Descriptor} (k : Nat) (hrow : (ruleRows op)[k]? = some d)
    (h1 : i.opcode = d.opcode) (h2 : i.mnemonic = op) (h3 : i.tag = d.mode) (h4 : i.length = d.length) : Statement i := by
  have h := List.all_eq_true.1 (List.all_eq_true.1 rules_agree op (mnemonics_complete op)) d (List.mem_of_getElem? hrow)
  rw [← h1, ← h2, ← h3, ← h4] at h
  exact h

theorem ldaImm (d : Byte) : Statement (.ldaImm d) := of_row (op := .lda) 0 rfl rfl rfl rfl rfl
theorem ldaZp (z : Byte) : Statement (.ldaZp z) := of_row (op := .lda) 1 rfl rfl rfl rfl rfl
theorem ldaZpx (z : Byte) : Statement (.ldaZpx z) := of_row (op := .lda) 2 rfl rfl rfl rfl rfl
theorem ldaAbs (w : Word) : Statement (.ldaAbs w) := of_row (op := .lda) 3 rfl rfl rfl rfl rfl
theorem ldaAbx (w : Word) : Statement (.ldaAbx w) := of_row (op := .lda) 4 rfl rfl rfl rfl rfl
theorem ldaAby (w : Word) : Statement (.ldaAby w) := of_row (op := .lda) 5 rfl rfl rfl rfl rfl
theorem ldaIzx (z : Byte) : Statement (.ldaIzx z) := of_row (op := .lda) 6 rfl rfl rfl rfl rfl
theorem ldaIzy (z : Byte) : Statement (.ldaIzy z) := of_row (op := .lda) 7 rfl rfl rfl rfl rfl
theorem ldxImm (d : Byte) : Statement (.ldxImm d) := of_row (op := .ldx) 0 rfl rfl rfl rfl rfl
theorem ldxZp (z : Byte) : Statement (.ldxZp z) := of_row (op := .ldx) 1 rfl rfl rfl rfl rfl
theorem ldxZpy (z : Byte) : Statement (.ldxZpy z) := of_row (op := .ldx) 2 rfl rfl rfl rfl rfl
theorem ldxAbs (w : Word) : Statement (.ldxAbs w) := of_row (op := .ldx) 3 rfl rfl rfl rfl rfl
theorem ldxAby (w : Word) : Statement (.ldxAby w) := of_row (op := .ldx) 4 rfl rfl rfl rfl rfl
theorem ldyImm (d : Byte) : Statement (.ldyImm d) := of_row (op := .ldy) 0 rfl rfl rfl rfl rfl
theorem ldyZp (z : Byte) : Statement (.ldyZp z) := of_row (op := .ldy) 1 rfl rfl rfl rfl rfl
theorem ldyZpx (z : Byte) : Statement (.ldyZpx z) := of_row (op := .ldy) 2 rfl rfl rfl rfl rfl
theorem ldyAbs (w : Word) : Statement (.ldyAbs w) := of_row (op := .ldy) 3 rfl rfl rfl rfl rfl
theorem ldyAbx (w : Word) : Statement (.ldyAbx w) := of_row (op := .ldy) 4 rfl rfl rfl rfl rfl
theorem staZp (z : Byte) : Statement (.staZp z) := of_row (op := .sta) 0 rfl rfl rfl rfl rfl
theorem staZpx (z : Byte) : Statement (.staZpx z) := of_row (op := .sta) 1 rfl rfl rfl rfl rfl
theorem staAbs (w : Word) : Statement (.staAbs w) := of_row (op := .sta) 2 rfl rfl rfl rfl rfl
theorem staAbx (w : Word) : Statement (.staAbx w) := of_row (op := .sta) 3 rfl rfl rfl rfl rfl
theorem staAby (w : Word) : Statement (.staAby w) := of_row (op := .sta) 4 rfl rfl rfl rfl rfl
theorem staIzx (z : Byte) : Statement (.staIzx z) := of_row (op := .sta) 5 rfl rfl rfl rfl rfl
theorem staIzy (z : Byte) : Statement (.staIzy z) := of_row (op := .sta) 6 rfl rfl rfl rfl rfl
theorem stxZp (z : Byte) : Statement (.stxZp z) := of_row (op := .stx) 0 rfl rfl rfl rfl rfl
theorem stxZpy (z : Byte) : Statement (.stxZpy z) := of_row (op := .stx) 1 rfl rfl rfl rfl rfl
theorem stxAbs (w : Word) : Statement (.stxAbs w) := of_row (op := .stx) 2 rfl rfl rfl rfl rfl
theorem styZp (z : Byte) : Statement (.styZp z) := of_row (op := .sty) 0 rfl rfl rfl rfl rfl
theorem styZpx (z : Byte) : Statement (.styZpx z) := of_row (op := .sty) 1 rfl rfl rfl rfl rfl
theorem styAbs (w : Word) : Statement (.styAbs w) := of_row (op := .sty) 2 rfl rfl rfl rfl rfl
theorem tax : Statement .tax := of_row (op := .tax) 0 rfl rfl rfl rfl rfl
theorem tay : Statement .tay := of_row (op := .tay) 0 rfl rfl rfl rfl rfl
theorem txa : Statement .txa := of_row (op := .txa) 0 rfl rfl rfl rfl rfl
theorem tya : Statement .tya := of_row (op := .tya) 0 rfl rfl rfl rfl rfl
theorem tsx : Statement .tsx := of_row (op := .tsx) 0 rfl rfl rfl rfl rfl
theorem txs : Statement .txs := of_row (op := .txs) 0 rfl rfl rfl rfl rfl
theorem pha : Statement .pha := of_row (op := .pha) 0 rfl rfl rfl rfl rfl
theorem php : Statement .php := of_row (op := .php) 0 rfl rfl rfl rfl rfl
theorem pla : Statement .pla := of_row (op := .pla) 0 rfl rfl rfl rfl rfl
theorem plp : Statement .plp := of_row (op := .plp) 0 rfl rfl rfl rfl rfl
theorem andImm (d : Byte) : Statement (.andImm d) := of_row (op := .and) 0 rfl rfl rfl rfl rfl
theorem andZp (z : Byte) : Statement (.andZp z) := of_row (op := .and) 1 rfl rfl rfl rfl rfl
theorem andZpx (z : Byte) : Statement (.andZpx z) := of_row (op := .and) 2 rfl rfl rfl rfl rfl
theorem andAbs (w : Word) : Statement (.andAbs w) := of_row (op := .and) 3 rfl rfl rfl rfl rfl
theorem andAbx (w : Word) : Statement (.andAbx w) := of_row (op := .and) 4 rfl rfl rfl rfl rfl
theorem andAby (w : Word) : Statement (.andAby w) := of_row (op := .and) 5 rfl rfl rfl rfl rfl
theorem andIzx (z : Byte) : Statement (.andIzx z) := of_row (op := .and) 6 rfl rfl rfl rfl rfl
theorem andIzy (z : Byte) : Statement (.andIzy z) := of_row (op := .and) 7 rfl rfl rfl rfl rfl
theorem oraImm (d : Byte) : Statement (.oraImm d) := of_row (op := .ora) 0 rfl rfl rfl rfl rfl
theorem oraZp (z : Byte) : Statement (.oraZp z) := of_row (op := .ora) 1 rfl rfl rfl rfl rfl
theorem oraZpx (z : Byte) : Statement (.oraZpx z) := of_row (op := .ora) 2 rfl rfl rfl rfl rfl
theorem oraAbs (w : Word) : Statement (.oraAbs w) := of_row (op := .ora) 3 rfl rfl rfl rfl rfl
theorem oraAbx (w : Word) : Statement (.oraAbx w) := of_row (op := .ora) 4 rfl rfl rfl rfl rfl
theorem oraAby (w : Word) : Statement (.oraAby w) := of_row (op := .ora) 5 rfl rfl rfl rfl rfl
theorem oraIzx (z : Byte) : Statement (.oraIzx z) := of_row (op := .ora) 6 rfl rfl rfl rfl rfl
theorem oraIzy (z : Byte) : Statement (.oraIzy z) := of_row (op := .ora) 7 rfl rfl rfl rfl rfl
theorem eorImm (d : Byte) : Statement (.eorImm d) := of_row (op := .eor) 0 rfl rfl rfl rfl rfl
theorem eorZp (z : Byte) : Statement (.eorZp z) := of_row (op := .eor) 1 rfl rfl rfl rfl rfl
theorem eorZpx (z : Byte) : Statement (.eorZpx z) := of_row (op := .eor) 2 rfl rfl rfl rfl rfl
theorem eorAbs (w : Word) : Statement (.eorAbs w) := of_row (op := .eor) 3 rfl rfl rfl rfl rfl
theorem eorAbx (w : Word) : Statement (.eorAbx w) := of_row (op := .eor) 4 rfl rfl rfl rfl rfl
theorem eorAby (w : Word) : Statement (.eorAby w) := of_row (op := .eor) 5 rfl rfl rfl rfl rfl
theorem eorIzx (z : Byte) : Statement (.eorIzx z) := of_row (op := .eor) 6 rfl rfl rfl rfl rfl
theorem eorIzy (z : Byte) : Statement (.eorIzy z) := of_row (op := .eor) 7 rfl rfl rfl rfl rfl
theorem bitZp (z : Byte) : Statement (.bitZp z) := of_row (op := .bit) 0 rfl rfl rfl rfl rfl
theorem bitAbs (w : Word) : Statement (.bitAbs w) := of_row (op := .bit) 1 rfl rfl rfl rfl rfl
theorem adcImm (d : Byte) : Statement (.adcImm d) := of_row (op := .adc) 0 rfl rfl rfl rfl rfl
theorem adcZp (z : Byte) : Statement (.adcZp z) := of_row (op := .adc) 1 rfl rfl rfl rfl rfl
theorem adcZpx (z : Byte) : Statement (.adcZpx z) := of_row (op := .adc) 2 rfl rfl rfl rfl rfl
theorem adcAbs (w : Word) : Statement (.adcAbs w) := of_row (op := .adc) 3 rfl rfl rfl rfl rfl
theorem adcAbx (w : Word) : Statement (.adcAbx w) := of_row (op := .adc) 4 rfl rfl rfl rfl rfl
theorem adcAby (w : Word) : Statement (.adcAby w) := of_row (op := .adc) 5 rfl rfl rfl rfl rfl
theorem adcIzx (z : Byte) : Statement (.adcIzx z) := of_row (op := .adc) 6 rfl rfl rfl rfl rfl
theorem adcIzy (z : Byte) : Statement (.adcIzy z) := of_row (op := .adc) 7 rfl rfl rfl rfl rfl
theorem sbcImm (d : Byte) : Statement (.sbcImm d) := of_row (op := .sbc) 0 rfl rfl rfl rfl rfl
theorem sbcZp (z : Byte) : Statement (.sbcZp z) := of_row (op := .sbc) 1 rfl rfl rfl rfl rfl
theorem sbcZpx (z : Byte) : Statement (.sbcZpx z) := of_row (op := .sbc) 2 rfl rfl rfl rfl rfl
theorem sbcAbs (w : Word) : Statement (.sbcAbs w) := of_row (op := .sbc) 3 rfl rfl rfl rfl rfl
theorem sbcAbx (w : Word) : Statement (.sbcAbx w) := of_row (op := .sbc) 4 rfl rfl rfl rfl rfl
theorem sbcAby (w : Word) : Statement (.sbcAby w) := of_row (op := .sbc) 5 rfl rfl rfl rfl rfl
theorem sbcIzx (z : Byte) : Statement (.sbcIzx z) := of_row (op := .sbc) 6 rfl rfl rfl rfl rfl
theorem sbcIzy (z : Byte) : Statement (.sbcIzy z) := of_row (op := .sbc) 7 rfl rfl rfl rfl rfl
theorem cmpImm (d : Byte) : Statement (.cmpImm d) := of_row (op := .cmp) 0 rfl rfl rfl rfl rfl
theorem cmpZp (z : Byte) : Statement (.cmpZp z) := of_row (op := .cmp) 1 rfl rfl rfl rfl rfl
theorem cmpZpx (z : Byte) : Statement (.cmpZpx z) := of_row (op := .cmp) 2 rfl rfl rfl rfl rfl
theorem cmpAbs (w : Word) : Statement (.cmpAbs w) := of_row (op := .cmp) 3 rfl rfl rfl rfl rfl
theorem cmpAbx (w : Word) : Statement (.cmpAbx w) := of_row (op := .cmp) 4 rfl rfl rfl rfl rfl
theorem cmpAby (w : Word) : Statement (.cmpAby w) := of_row (op := .cmp) 5 rfl rfl rfl rfl rfl
theorem cmpIzx (z : Byte) : Statement (.cmpIzx z) := of_row (op := .cmp) 6 rfl rfl rfl rfl rfl
theorem cmpIzy (z : Byte) : Statement (.cmpIzy z) := of_row (op := .cmp) 7 rfl rfl rfl rfl rfl
theorem cpxImm (d : Byte) : Statement (.cpxImm d) := of_row (op := .cpx) 0 rfl rfl rfl rfl rfl
theorem cpxZp (z : Byte) : Statement (.cpxZp z) := of_row (op := .cpx) 1 rfl rfl rfl rfl rfl
theorem cpxAbs (w : Word) : Statement (.cpxAbs w) := of_row (op := .cpx) 2 rfl rfl rfl rfl rfl
theorem cpyImm (d : Byte) : Statement (.cpyImm d) := of_row (op := .cpy) 0 rfl rfl rfl rfl rfl
theorem cpyZp (z : Byte) : Statement (.cpyZp z) := of_row (op := .cpy) 1 rfl rfl rfl rfl rfl
theorem cpyAbs (w : Word) : Statement (.cpyAbs w) := of_row (op := .cpy) 2 rfl rfl rfl rfl rfl
theorem incZp (z : Byte) : Statement (.incZp z) := of_row (op := .inc) 0 rfl rfl rfl rfl rfl
theorem incZpx (z : Byte) : Statement (.incZpx z) := of_row (op := .inc) 1 rfl rfl rfl rfl rfl
theorem incAbs (w : Word) : Statement (.incAbs w) := of_row (op := .inc) 2 rfl rfl rfl rfl rfl
theorem incAbx (w : Word) : Statement (.incAbx w) := of_row (op := .inc) 3 rfl rfl rfl rfl rfl
theorem decZp (z : Byte) : Statement (.decZp z) := of_row (op := .dec) 0 rfl rfl rfl rfl rfl
theorem decZpx (z : Byte) : Statement (.decZpx z) := of_row (op := .dec) 1 rfl rfl rfl rfl rfl
theorem decAbs (w : Word) : Statement (.decAbs w) := of_row (op := .dec) 2 rfl rfl rfl rfl rfl
theorem decAbx (w : Word) : Statement (.decAbx w) := of_row (op := .dec) 3 rfl rfl rfl rfl rfl
theorem inx : Statement .inx := of_row (op := .inx) 0 rfl rfl rfl rfl rfl
theorem iny : Statement .iny := of_row (op := .iny) 0 rfl rfl rfl rfl rfl
theorem dex : Statement .dex := of_row (op := .dex) 0 rfl rfl rfl rfl rfl
theorem dey : Statement .dey := of_row (op := .dey) 0 rfl rfl rfl rfl rfl
theorem aslAcc : Statement .aslAcc := of_row (op := .asl) 0 rfl rfl rfl rfl rfl
theorem aslZp (z : Byte) : Statement (.aslZp z) := of_row (op := .asl) 1 rfl rfl rfl rfl rfl
theorem aslZpx (z : Byte) : Statement (.aslZpx z) := of_row (op := .asl) 2 rfl rfl rfl rfl rfl
theorem aslAbs (w : Word) : Statement (.aslAbs w) := of_row (op := .asl) 3 rfl rfl rfl rfl rfl
theorem aslAbx (w : Word) : Statement (.aslAbx w) := of_row (op := .asl) 4 rfl rfl rfl rfl rfl
theorem lsrAcc : Statement .lsrAcc := of_row (op := .lsr) 0 rfl rfl rfl rfl rfl
theorem lsrZp (z : Byte) : Statement (.lsrZp z) := of_row (op := .lsr) 1 rfl rfl rfl rfl rfl
theorem lsrZpx (z : Byte) : Statement (.lsrZpx z) := of_row (op := .lsr) 2 rfl rfl rfl rfl rfl
theorem lsrAbs (w : Word) : Statement (.lsrAbs w) := of_row (op := .lsr) 3 rfl rfl rfl rfl rfl
theorem lsrAbx (w : Word) : Statement (.lsrAbx w) := of_row (op := .lsr) 4 rfl rfl rfl rfl rfl
theorem rolAcc : Statement .rolAcc := of_row (op := .rol) 0 rfl rfl rfl rfl rfl
theorem rolZp (z : Byte) : Statement (.rolZp z) := of_row (op := .rol) 1 rfl rfl rfl rfl rfl
theorem rolZpx (z : Byte) : Statement (.rolZpx z) := of_row (op := .rol) 2 rfl rfl rfl rfl rfl
theorem rolAbs (w : Word) : Statement (.rolAbs w) := of_row (op := .rol) 3 rfl rfl rfl rfl rfl
theorem rolAbx (w : Word) : Statement (.rolAbx w) := of_row (op := .rol) 4 rfl rfl rfl rfl rfl
theorem rorAcc : Statement .rorAcc := of_row (op := .ror) 0 rfl rfl rfl rfl rfl
theorem rorZp (z : Byte) : Statement (.rorZp z) := of_row (op := .ror) 1 rfl rfl rfl rfl rfl
theorem rorZpx (z : Byte) : Statement (.rorZpx z) := of_row (op := .ror) 2 rfl rfl rfl rfl rfl
theorem rorAbs (w : Word) : Statement (.rorAbs w) := of_row (op := .ror) 3 rfl rfl rfl rfl rfl
theorem rorAbx (w : Word) : Statement (.rorAbx w) := of_row (op := .ror) 4 rfl rfl rfl rfl rfl
theorem jmpAbs (w : Word) : Statement (.jmpAbs w) := of_row (op := .jmp) 0 rfl rfl rfl rfl rfl
theorem jmpInd (w : Word) : Statement (.jmpInd w) := of_row (op := .jmp) 1 rfl rfl rfl rfl rfl
theorem jsr (w : Word) : Statement (.jsr w) := of_row (op := .jsr) 0 rfl rfl rfl rfl rfl
theorem rts : Statement .rts := of_row (op := .rts) 0 rfl rfl rfl rfl rfl
theorem bcc (off : Byte) : Statement (.bcc off) := of_row (op := .bcc) 0 rfl rfl rfl rfl rfl
theorem bcs (off : Byte) : Statement (.bcs off) := of_row (op := .bcs) 0 rfl rfl rfl rfl rfl
theorem beq (off : Byte) : Statement (.beq off) := of_row (op := .beq) 0 rfl rfl rfl rfl rfl
theorem bne (off : Byte) : Statement (.bne off) := of_row (op := .bne) 0 rfl rfl rfl rfl rfl
theorem bmi (off : Byte) : Statement (.bmi off) := of_row (op := .bmi) 0 rfl rfl rfl rfl rfl
theorem bpl (off : Byte) : Statement (.bpl off) := of_row (op := .bpl) 0 rfl rfl rfl rfl rfl
theorem bvc (off : Byte) : Statement (.bvc off) := of_row (op := .bvc) 0 rfl rfl rfl rfl rfl
theorem bvs (off : Byte) : Statement (.bvs off) := of_row (op := .bvs) 0 rfl rfl rfl rfl rfl
theorem clc : Statement .clc := of_row (op := .clc) 0 rfl rfl rfl rfl rfl
theorem cld : Statement .cld := of_row (op := .cld) 0 rfl rfl rfl rfl rfl
theorem cli : Statement .cli := of_row (op := .cli) 0 rfl rfl rfl rfl rfl
theorem clv : Statement .clv := of_row (op := .clv) 0 rfl rfl rfl rfl rfl
theorem sec : Statement .sec := of_row (op := .sec) 0 rfl rfl rfl rfl rfl
theorem sed : Statement .sed := of_row (op := .sed) 0 rfl rfl rfl rfl rfl
theorem sei : Statement .sei := of_row (op := .sei) 0 rfl rfl rfl rfl rfl
theorem brk : Statement .brk := of_row (op := .brk) 0 rfl rfl rfl rfl rfl
theorem nop : Statement .nop := of_row (op := .nop) 0 rfl rfl rfl rfl rfl
theorem rti : Statement .rti := of_row (op := .rti) 0 rfl rfl rfl rfl rfl

/-- The family holds of every instruction. -/
theorem every_instr : ∀ i : Instr, Statement i
  | .ldaImm d => ldaImm d
  | .ldaZp z => ldaZp z
  | .ldaZpx z => ldaZpx z
  | .ldaAbs w => ldaAbs w
  | .ldaAbx w => ldaAbx w
  | .ldaAby w => ldaAby w
  | .ldaIzx z => ldaIzx z
  | .ldaIzy z => ldaIzy z
  | .ldxImm d => ldxImm d
  | .ldxZp z => ldxZp z
  | .ldxZpy z => ldxZpy z
  | .ldxAbs w => ldxAbs w
  | .ldxAby w => ldxAby w
  | .ldyImm d => ldyImm d
  | .ldyZp z => ldyZp z
  | .ldyZpx z => ldyZpx z
  | .ldyAbs w => ldyAbs w
  | .ldyAbx w => ldyAbx w
  | .staZp z => staZp z
  | .staZpx z => staZpx z
  | .staAbs w => staAbs w
  | .staAbx w => staAbx w
  | .staAby w => staAby w
  | .staIzx z => staIzx z
  | .staIzy z => staIzy z
  | .stxZp z => stxZp z
  | .stxZpy z => stxZpy z
  | .stxAbs w => stxAbs w
  | .styZp z => styZp z
  | .styZpx z => styZpx z
  | .styAbs w => styAbs w
  | .tax => tax
  | .tay => tay
  | .txa => txa
  | .tya => tya
  | .tsx => tsx
  | .txs => txs
  | .pha => pha
  | .php => php
  | .pla => pla
  | .plp => plp
  | .andImm d => andImm d
  | .andZp z => andZp z
  | .andZpx z => andZpx z
  | .andAbs w => andAbs w
  | .andAbx w => andAbx w
  | .andAby w => andAby w
  | .andIzx z => andIzx z
  | .andIzy z => andIzy z
  | .oraImm d => oraImm d
  | .oraZp z => oraZp z
  | .oraZpx z => oraZpx z
  | .oraAbs w => oraAbs w
  | .oraAbx w => oraAbx w
  | .oraAby w => oraAby w
  | .oraIzx z => oraIzx z
  | .oraIzy z => oraIzy z
  | .eorImm d => eorImm d
  | .eorZp z => eorZp z
  | .eorZpx z => eorZpx z
  | .eorAbs w => eorAbs w
  | .eorAbx w => eorAbx w
  | .eorAby w => eorAby w
  | .eorIzx z => eorIzx z
  | .eorIzy z => eorIzy z
  | .bitZp z => bitZp z
  | .bitAbs w => bitAbs w
  | .adcImm d => adcImm d
  | .adcZp z => adcZp z
  | .adcZpx z => adcZpx z
  | .adcAbs w => adcAbs w
  | .adcAbx w => adcAbx w
  | .adcAby w => adcAby w
  | .adcIzx z => adcIzx z
  | .adcIzy z => adcIzy z
  | .sbcImm d => sbcImm d
  | .sbcZp z => sbcZp z
  | .sbcZpx z => sbcZpx z
  | .sbcAbs w => sbcAbs w
  | .sbcAbx w => sbcAbx w
  | .sbcAby w => sbcAby w
  | .sbcIzx z => sbcIzx z
  | .sbcIzy z => sbcIzy z
  | .cmpImm d => cmpImm d
  | .cmpZp z => cmpZp z
  | .cmpZpx z => cmpZpx z
  | .cmpAbs w => cmpAbs w
  | .cmpAbx w => cmpAbx w
  | .cmpAby w => cmpAby w
  | .cmpIzx z => cmpIzx z
  | .cmpIzy z => cmpIzy z
  | .cpxImm d => cpxImm d
  | .cpxZp z => cpxZp z
  | .cpxAbs w => cpxAbs w
  | .cpyImm d => cpyImm d
  | .cpyZp z => cpyZp z
  | .cpyAbs w => cpyAbs w
  | .incZp z => incZp z
  | .incZpx z => incZpx z
  | .incAbs w => incAbs w
  | .incAbx w => incAbx w
  | .decZp z => decZp z
  | .decZpx z => decZpx z
  | .decAbs w => decAbs w
  | .decAbx w => decAbx w
  | .inx => inx
  | .iny => iny
  | .dex => dex
  | .dey => dey
  | .aslAcc => aslAcc
  | .aslZp z => aslZp z
  | .aslZpx z => aslZpx z
  | .aslAbs w => aslAbs w
  | .aslAbx w => aslAbx w
  | .lsrAcc => lsrAcc
  | .lsrZp z => lsrZp z
  | .lsrZpx z => lsrZpx z
  | .lsrAbs w => lsrAbs w
  | .lsrAbx w => lsrAbx w
  | .rolAcc => rolAcc
  | .rolZp z => rolZp z
  | .rolZpx z => rolZpx z
  | .rolAbs w => rolAbs w
  | .rolAbx w => rolAbx w
  | .rorAcc => rorAcc
  | .rorZp z => rorZp z
  | .rorZpx z => rorZpx z
  | .rorAbs w => rorAbs w
  | .rorAbx w => rorAbx w
  | .jmpAbs w => jmpAbs w
  | .jmpInd w => jmpInd w
  | .jsr w => jsr w
  | .rts => rts
  | .bcc off => bcc off
  | .bcs off => bcs off
  | .beq off => beq off
  | .bne off => bne off
  | .bmi off => bmi off
  | .bpl off => bpl off
  | .bvc off => bvc off
  | .bvs off => bvs off
  | .clc => clc
  | .cld => cld
  | .cli => cli
  | .clv => clv
  | .sec => sec
  | .sed => sed
  | .sei => sei
  | .brk => brk
  | .nop => nop
  | .rti => rti

/-- Every instruction's opcode byte has a well-formed row that says its mnemonic, mode tag and length. -/
theorem table_of_instr (i : Instr) : ∃ d, table i.opcode = some d ∧ d.wellFormed = true ∧ d.op = i.mnemonic ∧
    d.mode = i.tag ∧ d.length = i.length := by
  have h := every_instr i
  unfold Statement Instr.wellFormed at h
  split at h
  · rename_i d hd
    simp only [Bool.and_eq_true, beq_iff_eq] at h
    exact ⟨d, hd, h.1.1.1, h.1.1.2, h.1.2, h.2⟩
  · simp at h

end Sys2Proof.Laws.WellFormedRow
end

