-- ==== Sys2Proof/Tests/Slice0.lean ====
section
/-! SUPPORT. The model's own tests: the smoke test of every well-formedness check; decoding of words written out from the
spec's encoding tables; single Steps with the expected results of spec 95_test_vectors.md (the vector's name stands in each
theorem's docstring); and, for every statement with hypotheses, a state and operands that meet them. -/

namespace Sys2Proof.Tests

open Sys2Proof.Machine

/-! ## Well-formedness: each check refuses an ill-formed row (R71), and the parameter check (R6) -/

/-- LDA with IMP: an operation that needs an operand has none. -/
theorem test_wf_operand_agrees : (⟨0xA9, 1, 2, .imp, .lda, .never⟩ : Descriptor).operandAgrees = false := by decide

/-- LDA with IND. -/
theorem test_wf_indirect_only_jmp : (⟨0xA9, 3, 5, .ind, .lda, .never⟩ : Descriptor).indirectOnlyJmp = false := by decide

/-- INC with ACC. -/
theorem test_wf_accumulator_only_shift :
    (⟨0x1A, 1, 2, .acc, .inc, .never⟩ : Descriptor).accumulatorOnlyShift = false := by decide

/-- JMP with REL, and BNE with ABS. -/
theorem test_wf_relative_iff_branch : (⟨0x80, 2, 3, .rel, .jmp, .never⟩ : Descriptor).relativeIffBranch = false ∧
    (⟨0xD0, 3, 3, .abs, .bne, .branch⟩ : Descriptor).relativeIffBranch = false := by decide

/-- STA with IMM. -/
theorem test_wf_no_immediate_store : (⟨0x89, 2, 2, .imm, .sta, .never⟩ : Descriptor).noImmediateStore = false := by decide

/-- LDA IMM of three bytes. -/
theorem test_wf_length_agrees : (⟨0xA9, 3, 2, .imm, .lda, .never⟩ : Descriptor).lengthAgrees = false := by decide

/-- Each of the six ill-formed rows is refused as a whole, and the true row of LDA IMM is accepted. -/
theorem test_wf_rows : (⟨0xA9, 1, 2, .imp, .lda, .never⟩ : Descriptor).wellFormed = false ∧
    (⟨0xA9, 3, 5, .ind, .lda, .never⟩ : Descriptor).wellFormed = false ∧
    (⟨0x1A, 1, 2, .acc, .inc, .never⟩ : Descriptor).wellFormed = false ∧
    (⟨0x80, 2, 3, .rel, .jmp, .never⟩ : Descriptor).wellFormed = false ∧
    (⟨0x89, 2, 2, .imm, .sta, .never⟩ : Descriptor).wellFormed = false ∧
    (⟨0xA9, 3, 2, .imm, .lda, .never⟩ : Descriptor).wellFormed = false ∧
    (⟨0xA9, 2, 2, .imm, .lda, .never⟩ : Descriptor).wellFormed = true := by decide

/-- A stack page that does not begin a page. -/
theorem test_wf_config : ({ stackBase := 0x0180, bus := .plainRam } : Config).wellFormed = false ∧
    (Config.default .plainRam).wellFormed = true := by decide

/-! ## Decoding: words written out from the spec's encoding tables, bit 0 the least significant bit of the first byte -/

/-- Bytes A9 10. -/
theorem test_decode_load : decodeTableWord 16 0x10A9 = some (.ldaImm 0x10) := by decide

/-- Bytes BE FF 02. -/
theorem test_decode_load_wraps_nothing : decodeTableWord 24 0x02FFBE = some (.ldxAby 0x02FF) := by decide

/-- Bytes 91 86. -/
theorem test_decode_store : decodeTableWord 16 0x8691 = some (.staIzy 0x86) := by decide

/-- Bytes 96 FE. -/
theorem test_decode_store_zpy : decodeTableWord 16 0xFE96 = some (.stxZpy 0xFE) := by decide

/-- Bytes BA. -/
theorem test_decode_transfer : decodeTableWord 8 0xBA = some (.tsx) := by decide

/-- Bytes 08. -/
theorem test_decode_stack : decodeTableWord 8 0x08 = some (.php) := by decide

/-- Bytes 01 20. -/
theorem test_decode_logical : decodeTableWord 16 0x2001 = some (.oraIzx 0x20) := by decide

/-- Bytes 24 10. -/
theorem test_decode_bit : decodeTableWord 16 0x1024 = some (.bitZp 0x10) := by decide

/-- Bytes E9 03. -/
theorem test_decode_arithmetic : decodeTableWord 16 0x03E9 = some (.sbcImm 0x03) := by decide

/-- Bytes DD FF 01. -/
theorem test_decode_compare : decodeTableWord 24 0x01FFDD = some (.cmpAbx 0x01FF) := by decide

/-- Bytes FE FF 01. -/
theorem test_decode_increment : decodeTableWord 24 0x01FFFE = some (.incAbx 0x01FF) := by decide

/-- Bytes 0A. -/
theorem test_decode_shift : decodeTableWord 8 0x0A = some (.aslAcc) := by decide

/-- Bytes 6E 00 02. -/
theorem test_decode_shift_memory : decodeTableWord 24 0x02006E = some (.rorAbs 0x0200) := by decide

/-- Bytes 6C FF 12. -/
theorem test_decode_jump : decodeTableWord 24 0x12FF6C = some (.jmpInd 0x12FF) := by decide

/-- Bytes 20 10 06. -/
theorem test_decode_call : decodeTableWord 24 0x061020 = some (.jsr 0x0610) := by decide

/-- Bytes 10 80. -/
theorem test_decode_branch : decodeTableWord 16 0x8010 = some (.bpl 0x80) := by decide

/-- Bytes D8. -/
theorem test_decode_flag : decodeTableWord 8 0xD8 = some (.cld) := by decide

/-- Bytes 00. -/
theorem test_decode_system : decodeTableWord 8 0x00 = some (.brk) := by decide

/-- The illegal bytes of part 2 of the vectors. -/
theorem test_decode_illegal : decodeTableWord 8 0x02 = none ∧ decodeTableWord 8 0x80 = none ∧ decodeTableWord 8 0x89 = none ∧
    decodeTableWord 8 0x9E = none ∧ decodeTableWord 8 0xEB = none ∧ decodeTableWord 8 0xFF = none := by decide

/-! ## Single Steps, from the vectors -/

/-- The conventions of the vectors: the named registers, the other items zero, the named cells, the bytes at PC. -/
def vec (a x y sp p : Byte) (pc : Word) (cells : List (Word × Byte)) (bytes : List Byte) : State :=
  hostLoad pc bytes (cells.foldl (fun s c => hostWrite c.1 c.2 s)
    { State.created with a := a, x := x, y := y, sp := sp, p := p, pc := pc })

/-- The state one Step ends in. -/
def after (s : State) : State :=
  match step s with
  | .next t => t
  | _ => s

/-- Vector S1. -/
theorem test_lda_imm_S1 : let t := after (vec 0x0 0x0 0x0 0x0 0x0 0x0600 [] [0xA9, 0x10])
    t.a = 0x10 ∧ t.p = 0 ∧ t.pc = 0x0602 ∧ t.cycles = 2 := by decide

/-- Vector M16: page cross. -/
theorem test_lda_izy_M16 : let t := after (vec 0x0 0x0 0x10 0x0 0x0 0x0600 [(0x0086, 0xF8), (0x0087, 0x40), (0x4108, 0xDD)] [0xB1, 0x86])
    t.a = 0xDD ∧ t.cycles = 6 ∧ t.bus = [.read 0x0600 0xB1, .read 0x0601 0x86, .read 0x0086 0xF8, .read 0x0087 0x40, .read 0x4108 0xDD] := by decide

/-- Vector L3. -/
theorem test_ldx_aby_L3 : let t := after (vec 0x0 0x0 0x01 0x0 0x0 0x0600 [(0x0300, 0x80)] [0xBE, 0xFF, 0x02])
    t.x = 0x80 ∧ t.p = 0x80 ∧ t.cycles = 5 := by decide

/-- Vector M5. -/
theorem test_ldx_zpy_M5 : let t := after (vec 0x0 0x0 0x01 0x0 0x0 0x0600 [(0x0011, 0x7F)] [0xB6, 0x10])
    t.x = 0x7F ∧ t.cycles = 4 := by decide

/-- Vector L2. -/
theorem test_ldy_abx_L2 : let t := after (vec 0x0 0x01 0x33 0x0 0x0 0x0600 [] [0xBC, 0xFF, 0x12])
    t.y = 0 ∧ t.p = 0x02 ∧ t.pc = 0x0603 ∧ t.cycles = 5 := by decide

/-- Vector L5: no read of the target. -/
theorem test_sta_aby_L5 : let t := after (vec 0x5A 0x0 0x20 0x0 0x0 0x0600 [] [0x99, 0xF0, 0x12])
    Memory.read t.mem 0x1310 = 0x5A ∧ t.cycles = 5 ∧ t.bus = [.read 0x0600 0x99, .read 0x0601 0xF0, .read 0x0602 0x12, .write 0x1310 0x5A] := by decide

/-- Vector L6. -/
theorem test_sta_izy_L6 : let t := after (vec 0x5A 0x0 0x10 0x0 0x0 0x0600 [(0x0086, 0xF8), (0x0087, 0x40)] [0x91, 0x86])
    Memory.read t.mem 0x4108 = 0x5A ∧ t.cycles = 6 ∧ t.p = 0 := by decide

/-- Vector L7: the zero page wraps. -/
theorem test_stx_zpy_L7 : let t := after (vec 0x0 0x99 0x05 0x0 0x0 0x0600 [] [0x96, 0xFE])
    Memory.read t.mem 0x0003 = 0x99 ∧ t.cycles = 4 := by decide

/-- Vector L8. -/
theorem test_sty_zpx_L8 : let t := after (vec 0x0 0x20 0x31 0x0 0x0 0x0600 [] [0x94, 0xF0])
    Memory.read t.mem 0x0010 = 0x31 ∧ t.cycles = 4 := by decide

/-- Vector T1. -/
theorem test_tax_T1 : let t := after (vec 0x0 0x55 0x0 0x0 0x0 0x0600 [] [0xAA])
    t.x = 0 ∧ t.p = 0x02 := by decide

/-- Vector T2. -/
theorem test_tay_T2 : let t := after (vec 0x90 0x0 0x0 0x0 0x0 0x0600 [] [0xA8])
    t.y = 0x90 ∧ t.p = 0x80 := by decide

/-- Vector T3. -/
theorem test_txa_T3 : let t := after (vec 0x0 0x01 0x0 0x0 0x0 0x0600 [] [0x8A])
    t.a = 0x01 ∧ t.p = 0 := by decide

/-- Vector T4. -/
theorem test_tya_T4 : let t := after (vec 0x0 0x0 0xFF 0x0 0x0 0x0600 [] [0x98])
    t.a = 0xFF ∧ t.p = 0x80 := by decide

/-- Vector T5. -/
theorem test_tsx_T5 : let t := after (vec 0x0 0x0 0x0 0xFD 0x0 0x0600 [] [0xBA])
    t.x = 0xFD ∧ t.p = 0x80 ∧ t.sp = 0xFD := by decide

/-- Vector T6: Z is not set. -/
theorem test_txs_T6 : let t := after (vec 0x0 0x0 0x0 0x44 0x0 0x0600 [] [0x9A])
    t.sp = 0 ∧ t.p = 0 := by decide

/-- Vector T8: SP wraps. -/
theorem test_pha_T8 : let t := after (vec 0x77 0x0 0x0 0x0 0x0 0x0600 [] [0x48])
    Memory.read t.mem 0x0100 = 0x77 ∧ t.sp = 0xFF ∧ t.cycles = 3 := by decide

/-- Vector T9. -/
theorem test_php_T9 : let t := after (vec 0x0 0x0 0x0 0xFF 0xC3 0x0600 [] [0x08])
    Memory.read t.mem 0x01FF = 0xF3 ∧ t.p = 0xC3 ∧ t.sp = 0xFE := by decide

/-- Vector T11. -/
theorem test_pla_T11 : let t := after (vec 0x0 0x0 0x0 0xFF 0x0 0x0600 [(0x0100, 0x80)] [0x68])
    t.a = 0x80 ∧ t.sp = 0 ∧ t.p = 0x80 ∧ t.bus = [.read 0x0600 0x68, .read 0x0100 0x80] := by decide

/-- Vector T12. -/
theorem test_plp_T12 : let t := after (vec 0x0 0x0 0x0 0xFE 0x0 0x0600 [(0x01FF, 0xD3)] [0x28])
    t.p = 0xE3 ∧ t.sp = 0xFF := by decide

/-- Vector G1. -/
theorem test_and_imm_G1 : let t := after (vec 0xF0 0x0 0x0 0x0 0x0 0x0600 [] [0x29, 0x3C])
    t.a = 0x30 ∧ t.p = 0 := by decide

/-- Vector G3. -/
theorem test_ora_imm_G3 : let t := after (vec 0x0F 0x0 0x0 0x0 0x0 0x0600 [] [0x09, 0x80])
    t.a = 0x8F ∧ t.p = 0x80 := by decide

/-- Vector G6. -/
theorem test_eor_zp_G6 : let t := after (vec 0x0F 0x0 0x0 0x0 0x0 0x0600 [(0x0010, 0xFF)] [0x45, 0x10])
    t.a = 0xF0 ∧ t.p = 0x80 ∧ t.cycles = 3 := by decide

/-- Vector G7. -/
theorem test_bit_zp_G7 : let t := after (vec 0x01 0x0 0x0 0x0 0x0 0x0600 [(0x0010, 0xC0)] [0x24, 0x10])
    t.a = 0x01 ∧ t.p = 0xC2 := by decide

/-- Vector G8. -/
theorem test_bit_zp_G8 : let t := after (vec 0xFF 0x0 0x0 0x0 0xC0 0x0600 [(0x0010, 0x3F)] [0x24, 0x10])
    t.p = 0 := by decide

/-- Vector S7. -/
theorem test_adc_imm_S7 : let t := after (vec 0x50 0x0 0x0 0x0 0x0 0x0600 [] [0x69, 0x50])
    t.a = 0xA0 ∧ t.p = 0xC0 ∧ t.cycles = 2 := by decide

/-- Vector A7: the Decimal flag steers nothing. -/
theorem test_adc_imm_A7 : let t := after (vec 0x09 0x0 0x0 0x0 0x08 0x0600 [] [0x69, 0x09])
    t.a = 0x12 ∧ t.p = 0x08 := by decide

/-- Vector A12. -/
theorem test_sbc_imm_A12 : let t := after (vec 0x50 0x0 0x0 0x0 0x01 0x0600 [] [0xE9, 0xB0])
    t.a = 0xA0 ∧ t.p = 0xC0 := by decide

/-- Vector A15 under P_SBC_TWOS. -/
theorem test_sbc_imm_A15_twos : let t := after { vec 0x0 0x0 0x0 0x0 0x01 0x0600 [] [0xE9, 0x00] with cfg := { sbcTwos := true, bus := .plainRam } }
    t.a = 0x01 ∧ t.p = 0 := by decide

/-- Vector part 3.5, other forms. -/
theorem test_cmp_abx_95 : let t := after (vec 0x55 0x10 0x0 0x0 0x0 0x0600 [(0x020F, 0x55)] [0xDD, 0xFF, 0x01])
    t.a = 0x55 ∧ t.p = 0x03 ∧ t.cycles = 5 := by decide

/-- Vector part 3.5, other forms. -/
theorem test_cpx_zp_95 : let t := after (vec 0x0 0x10 0x0 0x0 0x0 0x0600 [(0x0010, 0x20)] [0xE4, 0x10])
    t.p = 0x80 ∧ t.x = 0x10 := by decide

/-- Vector part 3.5, other forms. -/
theorem test_cpy_abs_95 : let t := after (vec 0x0 0x0 0xFF 0x0 0x0 0x0600 [] [0xCC, 0x00, 0x02])
    t.p = 0x81 ∧ t.cycles = 4 := by decide

/-- Vector I1. -/
theorem test_inc_zp_I1 : let t := after (vec 0x0 0x0 0x0 0x0 0x0 0x0600 [(0x0010, 0xFF)] [0xE6, 0x10])
    Memory.read t.mem 0x0010 = 0 ∧ t.p = 0x02 ∧ t.bus = [.read 0x0600 0xE6, .read 0x0601 0x10, .read 0x0010 0xFF, .write 0x0010 0x00] := by decide

/-- Vector I3. -/
theorem test_dec_abs_I3 : let t := after (vec 0x0 0x0 0x0 0x0 0x0 0x0600 [] [0xCE, 0x00, 0x02])
    Memory.read t.mem 0x0200 = 0xFF ∧ t.p = 0x80 ∧ t.cycles = 6 := by decide

/-- Vector I5: C is kept. -/
theorem test_inx_I5 : let t := after (vec 0x0 0xFF 0x0 0x0 0x01 0x0600 [] [0xE8])
    t.x = 0 ∧ t.p = 0x03 := by decide

/-- Vector I6. -/
theorem test_iny_I6 : let t := after (vec 0x0 0x0 0x7F 0x0 0x0 0x0600 [] [0xC8])
    t.y = 0x80 ∧ t.p = 0x80 := by decide

/-- Vector I7. -/
theorem test_dex_I7 : let t := after (vec 0x0 0x01 0x0 0x0 0x0 0x0600 [] [0xCA])
    t.x = 0 ∧ t.p = 0x02 := by decide

/-- Vector I8. -/
theorem test_dey_I8 : let t := after (vec 0x0 0x0 0x0 0x0 0x0 0x0600 [] [0x88])
    t.y = 0xFF ∧ t.p = 0x80 := by decide

/-- Vector I9. -/
theorem test_asl_acc_I9 : let t := after (vec 0x81 0x0 0x0 0x0 0x0 0x0600 [] [0x0A])
    t.a = 0x02 ∧ t.p = 0x01 := by decide

/-- Vector I10. -/
theorem test_asl_zp_I10 : let t := after (vec 0x0 0x0 0x0 0x0 0x0 0x0600 [(0x0010, 0xC0)] [0x06, 0x10])
    Memory.read t.mem 0x0010 = 0x80 ∧ t.p = 0x81 ∧ t.a = 0 := by decide

/-- Vector I11: N is cleared. -/
theorem test_lsr_acc_I11 : let t := after (vec 0x01 0x0 0x0 0x0 0x80 0x0600 [] [0x4A])
    t.a = 0 ∧ t.p = 0x03 := by decide

/-- Vector S9. -/
theorem test_rol_acc_S9 : let t := after (vec 0x55 0x0 0x0 0x0 0x01 0x0600 [] [0x2A])
    t.a = 0xAB ∧ t.p = 0x80 := by decide

/-- Vector I13. -/
theorem test_rol_zpx_I13 : let t := after (vec 0x0 0x01 0x0 0x0 0x01 0x0600 [(0x0011, 0x80)] [0x36, 0x10])
    Memory.read t.mem 0x0011 = 0x01 ∧ t.p = 0x01 := by decide

/-- Vector S9. -/
theorem test_ror_acc_S9 : let t := after (vec 0x01 0x0 0x0 0x0 0x01 0x0600 [] [0x6A])
    t.a = 0x80 ∧ t.p = 0x81 := by decide

/-- Vector I14. -/
theorem test_ror_abs_I14 : let t := after (vec 0x0 0x0 0x0 0x0 0x01 0x0600 [(0x0200, 0x02)] [0x6E, 0x00, 0x02])
    Memory.read t.mem 0x0200 = 0x81 ∧ t.p = 0x80 ∧ t.cycles = 6 := by decide

/-- Vector J1. -/
theorem test_jmp_abs_J1 : let t := after (vec 0x0 0x0 0x0 0x0 0x0 0x0600 [] [0x4C, 0x34, 0x12])
    t.pc = 0x1234 ∧ t.cycles = 3 := by decide

/-- Vector M17: both bytes from one page. -/
theorem test_jmp_ind_M17 : let t := after (vec 0x0 0x0 0x0 0x0 0x0 0x0600 [(0x12FF, 0x34), (0x1200, 0x56), (0x1300, 0x78)] [0x6C, 0xFF, 0x12])
    t.pc = 0x5634 ∧ t.cycles = 5 := by decide

/-- Vector J5: SP wraps. -/
theorem test_jsr_J5 : let t := after (vec 0x0 0x0 0x0 0x0 0x0 0x0600 [] [0x20, 0x00, 0x80])
    Memory.read t.mem 0x0100 = 0x06 ∧ Memory.read t.mem 0x01FF = 0x02 ∧ t.sp = 0xFE ∧ t.pc = 0x8000 := by decide

/-- Vector J7: PC wraps. -/
theorem test_rts_J7 : let t := after (vec 0x0 0x0 0x0 0xFD 0x0 0x0600 [(0x01FE, 0xFF), (0x01FF, 0xFF)] [0x60])
    t.pc = 0 ∧ t.sp = 0xFF ∧ t.cycles = 6 := by decide

/-- Vector B2: backward into another page. -/
theorem test_bcc_B2 : let t := after (vec 0x0 0x0 0x0 0x0 0x0 0x0600 [] [0x90, 0xFB])
    t.pc = 0x05FD ∧ t.cycles = 4 := by decide

/-- Vector B12: not taken. -/
theorem test_bcs_B12 : let t := after (vec 0x0 0x0 0x0 0x0 0x0 0x0600 [] [0xB0, 0xFB])
    t.pc = 0x0602 ∧ t.cycles = 2 := by decide

/-- Vector B13. -/
theorem test_beq_B13 : let t := after (vec 0x0 0x0 0x0 0x0 0x02 0x0600 [] [0xF0, 0x02])
    t.pc = 0x0604 ∧ t.cycles = 3 := by decide

/-- Vector B15. -/
theorem test_bne_B15 : let t := after (vec 0x0 0x0 0x0 0x0 0x0 0x0602 [] [0xD0, 0xFD])
    t.pc = 0x0601 ∧ t.cycles = 3 := by decide

/-- Vector B17. -/
theorem test_bmi_B17 : let t := after (vec 0x0 0x0 0x0 0x0 0x80 0x0600 [] [0x30, 0x7F])
    t.pc = 0x0681 ∧ t.cycles = 3 := by decide

/-- Vector B19. -/
theorem test_bpl_B19 : let t := after (vec 0x0 0x0 0x0 0x0 0x0 0x0600 [] [0x10, 0x80])
    t.pc = 0x0582 ∧ t.cycles = 4 := by decide

/-- Vector B21. -/
theorem test_bvc_B21 : let t := after (vec 0x0 0x0 0x0 0x0 0x0 0x0600 [] [0x50, 0x00])
    t.pc = 0x0602 ∧ t.cycles = 3 := by decide

/-- Vector B23. -/
theorem test_bvs_B23 : let t := after (vec 0x0 0x0 0x0 0x0 0x40 0x06F0 [] [0x70, 0x10])
    t.pc = 0x0702 ∧ t.cycles = 4 := by decide

/-- Vector F1. -/
theorem test_clc_F1 : let t := after (vec 0x0 0x0 0x0 0x0 0xFF 0x0600 [] [0x18])
    t.p = 0xFE := by decide

/-- Vector F2. -/
theorem test_cld_F2 : let t := after (vec 0x0 0x0 0x0 0x0 0x08 0x0600 [] [0xD8])
    t.p = 0 := by decide

/-- Vector F3. -/
theorem test_cli_F3 : let t := after (vec 0x0 0x0 0x0 0x0 0x04 0x0600 [] [0x58])
    t.p = 0 := by decide

/-- Vector F4. -/
theorem test_clv_F4 : let t := after (vec 0x0 0x0 0x0 0x0 0x40 0x0600 [] [0xB8])
    t.p = 0 := by decide

/-- Vector F5. -/
theorem test_sec_F5 : let t := after (vec 0x0 0x0 0x0 0x0 0x0 0x0600 [] [0x38])
    t.p = 0x01 := by decide

/-- Vector F6. -/
theorem test_sed_F6 : let t := after (vec 0x0 0x0 0x0 0x0 0x0 0x0600 [] [0xF8])
    t.p = 0x08 := by decide

/-- Vector F7. -/
theorem test_sei_F7 : let t := after (vec 0x0 0x0 0x0 0x0 0x0 0x0600 [] [0x78])
    t.p = 0x04 := by decide

/-- Vector F10. -/
theorem test_brk_F10 : let t := after (vec 0x0 0x0 0x0 0xFF 0x03 0x0600 [(0xFFFF, 0x90)] [0x00])
    Memory.read t.mem 0x01FF = 0x06 ∧ Memory.read t.mem 0x01FE = 0x02 ∧ Memory.read t.mem 0x01FD = 0x33 ∧ t.sp = 0xFC ∧ t.p = 0x07 ∧ t.pc = 0x9000 ∧ t.cycles = 7 ∧ t.halted = false := by decide

/-- Vector F11: the return address wraps. -/
theorem test_brk_F11 : let t := after (vec 0x0 0x0 0x0 0xFF 0x0 0xFFFF [] [0x00])
    Memory.read t.mem 0x01FE = 0x01 ∧ Memory.read t.mem 0x01FD = 0x30 ∧ t.p = 0x04 ∧ t.pc = 0 := by decide

/-- Vector F9: PC wraps. -/
theorem test_nop_F9 : let t := after (vec 0x0 0x0 0x0 0x0 0x0 0xFFFF [] [0xEA])
    t.pc = 0 ∧ t.cycles = 2 := by decide

/-- Vector F13. -/
theorem test_rti_F13 : let t := after (vec 0x0 0x0 0x0 0xFC 0x0 0x9000 [(0x01FD, 0x33), (0x01FE, 0x02), (0x01FF, 0x06)] [0x40])
    t.p = 0x23 ∧ t.pc = 0x0602 ∧ t.sp = 0xFF ∧ t.cycles = 6 := by decide

/-- Vector X1 (R231): an illegal opcode halts with PC one past it, one bus read, nothing charged. -/
theorem test_illegal_X1 : let t := after { vec 0 0 0 0 0 0x0600 [] [0x02] with cycles := 10 }
    t.pc = 0x0601 ∧ t.halted = true ∧ t.cycles = 10 ∧ t.bus = [.read 0x0600 0x02] ∧
    reportedFault t = some (.illegalOpcode 0x02 0x0600) := by decide

/-- Vector X2 (R89): a halted core does nothing. -/
theorem test_halted_X2 : let s := { vec 0 0 0 0 0 0x0601 [] [0xA9, 0x01] with halted := true, cycles := 10 }
    after s = s ∧ stepReturn s = some true := by decide

/-- Vector X5 (R251). -/
theorem test_reset_X5 :
    let t := hostReset { vec 0x12 0 0 0x80 0xC3 0x1234 [(0xFFFD, 0x06)] [] with halted := true, cycles := 99 }
    t.a = 0 ∧ t.sp = 0xFF ∧ t.p = 0 ∧ t.pc = 0x0600 ∧ t.halted = false ∧ t.cycles = 99 := by decide

/-- Vector X6 (R250, R217): a created core without `Reset` runs the BRK at 0x0000. -/
theorem test_created_X6 : let t := after State.created
    Memory.read t.mem 0x0100 = 0 ∧ Memory.read t.mem 0x01FF = 0x02 ∧ Memory.read t.mem 0x01FE = 0x30 ∧ t.sp = 0xFD ∧
    t.p = 0x04 ∧ t.pc = 0 ∧ t.cycles = 7 := by decide

/-- Vectors M13 and M14 (R114): the zero-page pointer at 0xFF without and with `P_ZP_PTR_WRAP`. -/
theorem test_zero_page_pointer_M13_M14 :
    let s := vec 0 0 0 0 0 0x0601 [(0x00FF, 0x34), (0x0100, 0x12), (0x0000, 0x56)] []
    (ea 0xA1 (.izx 0xFF) s).1 = 0x1234 ∧
    (ea 0xA1 (.izx 0xFF) { s with cfg := { zpPtrWrap := true, bus := .plainRam } }).1 = 0x5634 := by decide

/-- Vector M18 (R108): JMP Indirect without `P_JMP_IND_WRAP`. -/
theorem test_jump_pointer_M18 :
    (ea 0x6C (.ind 0x12FF) { vec 0 0 0 0 0 0x0601 [(0x12FF, 0x34), (0x1200, 0x56), (0x1300, 0x78)] [] with
      cfg := { jmpIndWrap := false, bus := .plainRam } }).1 = 0x7834 := by decide

/-- The host's placing of one instruction: the next Step runs exactly it (assumption log 10). -/
theorem test_withFetchWord : let t := after (State.reset.withFetchWord 16 0x07A9)
    t.a = 0x07 ∧ t.pc = 0x0002 ∧ t.bus = [.read 0x0000 0xA9, .read 0x0001 0x07] := by decide

/-- Two windows (R41, R52): a ROM from 0xF000 on, and a device register at 0x2000 that answers 0x41 and then 0x42, each once,
and goes back to 0x41 when 0x00 is written to it. -/
def twoWindows : Config := Config.default {
  windows := [⟨0xF000, 0xFFFF, .rom⟩, ⟨0x2000, 0x2000, .external⟩]
  answers := [((0, 0x2000), (0x41, 1)), ((1, 0x2000), (0x42, 2))]
  effects := [((1, 0x2000, 0x00), 0)] }

/-- STA $F000: the write is issued and the ROM keeps its byte. -/
theorem test_store_to_rom :
    let t := after { vec 0x5A 0 0 0 0 0x0600 [(0xF000, 0x99)] [0x8D, 0x00, 0xF0] with cfg := twoWindows }
    Memory.read t.mem 0xF000 = 0x99 ∧ t.bus = [.read 0x0600 0x8D, .read 0x0601 0x00, .read 0x0602 0xF0, .write 0xF000 0x5A] ∧
    busAnswer t [] 0xF000 = 0x99 := by decide

/-- LDA $2000: the device answers, and its next answer is another; a store has its effect on the device and on no cell. -/
theorem test_device_register :
    (let t := after { vec 0 0 0 0 0 0x0600 [] [0xAD, 0x00, 0x20] with cfg := twoWindows }
     t.a = 0x41 ∧ busAnswer t [] 0x2000 = 0x42) ∧
    let s := { vec 0x00 0 0 0 0 0x0600 [] [0x8D, 0x00, 0x20] with cfg := twoWindows, device := 1 }
    (after s).mem = s.mem ∧ busAnswer (after s) [] 0x2000 = 0x41 ∧ busAnswer (after s) [0x2000] 0x2000 = 0x42 := by decide

/-- An illegal byte fetched from the ROM is the one reported (R231). -/
theorem test_reported_from_rom :
    reportedFault (after { vec 0 0 0 0 0 0xF000 [(0xF000, 0x02)] [] with cfg := twoWindows }) =
      some (.illegalOpcode 0x02 0xF000) := by decide

/-! ## States and operands that meet the hypotheses of each statement -/

/-- DecodeAndEncodeAgree: both premises. -/
theorem witness_DecodeAndEncodeAgree : (Instr.jmpInd 0x1234).wellFormed = true ∧
    (decode [0x6C, 0x34, 0x12, 0xEA]).toOption = some (.jmpInd 0x1234, [0xEA]) := by decide

/-- UnpopulatedBytesAreTheListedOnes: the first and the last listed byte. -/
theorem witness_UnpopulatedBytes : (0x02 : Byte) ∈ illegalBytes ∧ (0xFF : Byte) ∈ illegalBytes := by decide

/-- OpcodeTableInvariants: the first and the last populated byte. -/
theorem witness_OpcodeTableInvariants : table 0x00 = some ⟨0x00, 1, 7, .imp, .brk, .never⟩ ∧
    table 0xFE = some ⟨0xFE, 3, 7, .abx, .inc, .never⟩ := by decide

/-- RuleTablesAreTheInstructions. -/
theorem witness_RuleTables : (⟨0x6C, 3, 5, .ind, .jmp, .never⟩ : Descriptor) ∈ ruleRows .jmp := by decide

/-- StepRunsTheDecodedInstruction: a running core with the three bytes of LDA $1234 across the top of the address space. -/
theorem witness_StepRuns : let s := vec 0 0 0 0 0 0xFFFE [] [0xAD, 0x34, 0x12]
    s.halted = false ∧ ∀ k b, (encode (.ldaAbs 0x1234))[k]? = some b →
      busAnswer s (consecutive k s.pc) (s.pc + BitVec.ofNat 16 k) = b := by
  refine ⟨by decide, fun k b h => ?_⟩
  match k with
  | 0 => exact Option.some.inj h
  | 1 => exact Option.some.inj h
  | 2 => exact Option.some.inj h
  | k + 3 => simp [encode] at h

/-- HaltedStepChangesNothing. -/
theorem witness_HaltedStep : ({ State.reset with halted := true } : State).halted = true := by decide

/-- IllegalOpcodeHaltsThere. -/
theorem witness_IllegalOpcode : let s := vec 0 0 0 0 0 0x0600 [] [0x02]
    s.halted = false ∧ (0x02 : Byte) ∈ illegalBytes ∧ busAnswer s [] s.pc = 0x02 ∧ isExternal s.cfg s.pc = false := by decide

/-- InvariantKeptByEveryStep, StepKeepsTheParameters: a state with the invariant, and its Step. -/
theorem witness_Invariant : StateInv State.reset ∧ step State.reset = .next (after State.reset) := by
  refine ⟨by unfold StateInv; decide, rfl⟩

/-- InvariantAtCreationAndReset: a state with memory, before Reset. -/
theorem witness_InvariantAtReset : let s := vec 0x12 0 0 0x80 0xC3 0x1234 [(0xFFFD, 0x06), (0x0000, 0x01)] []
    Memory.wf s.mem = true ∧ s.cfg.wellFormed = true := by decide

/-- StepChargesBaseCostAndBonus: one Step in each bonus class with the bonus at its bound, and a faulting one. -/
theorem witness_StepCharges :
    (let s := vec 0 0 0 0 0 0x0600 [] [0xEA]
     s.halted = false ∧ (table (busAnswer s [] s.pc)).map (·.bonus) = some .never ∧ (after s).bonus = 0) ∧
    (let s := vec 0 0x10 0 0 0 0x0600 [] [0xBD, 0xFF, 0x01]
     s.halted = false ∧ (table (busAnswer s [] s.pc)).map (·.bonus) = some .pageCross ∧ (after s).bonus = 1) ∧
    (let s := vec 0 0 0 0 0 0x0600 [] [0x90, 0xFB]
     s.halted = false ∧ (table (busAnswer s [] s.pc)).map (·.bonus) = some .branch ∧ (after s).bonus = 2) ∧
    (let s := vec 0 0 0 0 0 0x0600 [] [0x02]
     s.halted = false ∧ table (busAnswer s [] s.pc) = none ∧ step s = .next (after s)) := by
  refine ⟨by decide, by decide, by decide, by decide, by decide, rfl⟩

/-- HaltedIsSetOnlyByIllegalOpcode: a Step that halts and a Step that does not. -/
theorem witness_Halted :
    (let s := vec 0 0 0 0 0 0x0600 [] [0x02]
     s.halted = false ∧ step s = .next (after s) ∧ (after s).halted = true) ∧
    (let s := vec 0 0 0 0 0 0x0600 [] [0x00]
     s.halted = false ∧ step s = .next (after s) ∧ (after s).halted = false) := by
  refine ⟨⟨by decide, rfl, by decide⟩, by decide, rfl, by decide⟩

/-- InstructionsWriteOnlyWhatTheTableSays, BreakFlagsAreWrittenByPlpAndRtiAlone, CyclesSteerNothing: an execution. -/
theorem witness_exec : ruleWritesMemory (.ldaImm 0x10) = false ∧ ruleWritesMemory .aslAcc = false ∧
    (∃ t, exec (.ldaImm 0x10) State.reset = .next t ∧ t.a = 0x10) ∧ ∃ t, exec .plp State.reset = .next t ∧ t.p = 0x20 :=
  ⟨by decide, by decide, ⟨_, rfl, by decide⟩, ⟨_, rfl, by decide⟩⟩

/-- FlagPrimitives: the lowest and the highest bit. -/
theorem witness_FlagPrimitives : setBit 0 true 0x00 = 0x01 ∧ setBit 7 true 0x00 = 0x80 ∧ isNegative 0x80 = true ∧
    isNegative 0x7F = false := by decide

/-- InterruptDecimalBreakFlagsSteerNothing: PHP with P = 0 and P with B and U set; ADC with P = 0 and P with I, D, B and U
set. -/
theorem witness_SteerNothing :
    ((∀ f ∈ [Flag.c, Flag.z, Flag.i, Flag.d, Flag.v, Flag.n],
      getFlag f { State.reset with p := 0x30 } = getFlag f State.reset) ∧ ∃ t, exec .php State.reset = .next t) ∧
    (Instr.adcImm 0x09).mnemonic ≠ .php ∧ (Instr.adcImm 0x09).mnemonic ≠ .brk ∧
    (∀ f ∈ [Flag.c, Flag.z, Flag.v, Flag.n], getFlag f { State.reset with p := 0x3C } = getFlag f State.reset) ∧
    ∃ t, exec (.adcImm 0x09) State.reset = .next t :=
  ⟨⟨by decide, _, rfl⟩, by decide, by decide, by decide, _, rfl⟩

/-- MemoryIsWhatReadsSay: two canonical memories, two addresses of plain RAM, one of a ROM. -/
theorem witness_Memory : Memory.wf [(0x0010, 0x01), (0xFFFF, 0x02)] = true ∧ Memory.wf [] = true ∧
    isRam (Config.default .plainRam) 0x0000 = true ∧ isRam (Config.default .plainRam) 0xFFFF = true ∧
    isExternal twoWindows 0xF000 = false := by decide

/-- WordsAreLittleEndian: a word at the top of the address space. -/
theorem witness_Words : isRam State.reset.cfg 0xFFFF = true ∧ isRam State.reset.cfg (0xFFFF + 1) = true := by decide

/-- NextFetchSeesTheStore: STA over the byte that follows it. -/
theorem witness_NextFetch : let s := vec 0xEA 0 0 0 0 0x0601 [] []
    ((Instr.staAbs 0x0603).mnemonic, Reg.a) ∈ [(Mnemonic.sta, Reg.a), (.stx, .x), (.sty, .y)] ∧
    (Instr.staAbs 0x0603).addrMode = some (.abs 0x0603) ∧
    isRam s.cfg (ea 0x8D (.abs 0x0603) s).1 = true ∧
    ∃ t, exec (.staAbs 0x0603) s = .next t ∧ t.pc = (ea 0x8D (.abs 0x0603) s).1 :=
  ⟨by decide, by decide, by decide, _, rfl, by decide⟩

/-- OperandsAreReadAtTheEffectiveAddress: a mode of each clause. -/
theorem witness_Operands : (∃ d, AddrMode.imm 0x10 = .imm d ∨ AddrMode.imm 0x10 = .rel d) ∧
    ∀ d, AddrMode.zp 0x10 ≠ .imm d ∧ AddrMode.zp 0x10 ≠ .rel d := by
  refine ⟨⟨0x10, .inl rfl⟩, fun d => ⟨by simp, by simp⟩⟩

/-- LoadResult, one instruction for each register. -/
theorem witness_LoadResult :
    ((Instr.ldaIzy 0x86).mnemonic, Reg.a) ∈ [(Mnemonic.lda, Reg.a), (.ldx, .x), (.ldy, .y)] ∧
    (Instr.ldaIzy 0x86).addrMode = some (.izy 0x86) ∧
    ((Instr.ldxZpy 0x10).mnemonic, Reg.x) ∈ [(Mnemonic.lda, Reg.a), (.ldx, .x), (.ldy, .y)] ∧
    (Instr.ldxZpy 0x10).addrMode = some (.zpy 0x10) ∧
    ((Instr.ldyAbx 0x12FF).mnemonic, Reg.y) ∈ [(Mnemonic.lda, Reg.a), (.ldx, .x), (.ldy, .y)] ∧
    (Instr.ldyAbx 0x12FF).addrMode = some (.abx 0x12FF) := by decide

/-- StoreResult. -/
theorem witness_StoreResult :
    ((Instr.staIzx 0xFF).mnemonic, Reg.a) ∈ [(Mnemonic.sta, Reg.a), (.stx, .x), (.sty, .y)] ∧
    (Instr.staIzx 0xFF).addrMode = some (.izx 0xFF) ∧
    ((Instr.stxZpy 0xFE).mnemonic, Reg.x) ∈ [(Mnemonic.sta, Reg.a), (.stx, .x), (.sty, .y)] ∧
    (Instr.stxZpy 0xFE).addrMode = some (.zpy 0xFE) := by decide

/-- TransferResult. -/
theorem witness_TransferResult : (Instr.tsx.mnemonic, Reg.sp, Reg.x) ∈
    [(Mnemonic.tax, Reg.a, Reg.x), (.tay, .a, .y), (.txa, .x, .a), (.tya, .y, .a), (.tsx, .sp, .x)] := by decide

/-- StackPrimitives: the slots of SP = 0x00 and SP = 0xFF are plain RAM. -/
theorem witness_StackPrimitives : isRam State.reset.cfg (slot State.reset 0x00) = true ∧
    isRam State.reset.cfg (slot State.reset 0xFF) = true := by decide

/-- PushResult. -/
theorem witness_PushResult : (Instr.pha.mnemonic = .pha ∨ Instr.pha.mnemonic = .php) ∧
    (Instr.php.mnemonic = .pha ∨ Instr.php.mnemonic = .php) := by decide

/-- LogicalResult, BitResult, AdcResult, IncrementMemoryResult. -/
theorem witness_modes : (Instr.andIzy 0x10).mnemonic = .and ∧ (Instr.andIzy 0x10).addrMode = some (.izy 0x10) ∧
    (Instr.oraImm 0x10).mnemonic = .ora ∧ (Instr.oraImm 0x10).addrMode = some (.imm 0x10) ∧
    (Instr.eorAbs 0x1234).mnemonic = .eor ∧ (Instr.eorAbs 0x1234).addrMode = some (.abs 0x1234) ∧
    (Instr.bitZp 0x10).mnemonic = .bit ∧ (Instr.bitZp 0x10).addrMode = some (.zp 0x10) ∧
    (Instr.adcImm 0x50).mnemonic = .adc ∧ (Instr.adcImm 0x50).addrMode = some (.imm 0x50) ∧
    (Instr.incAbx 0x01FF).mnemonic = .inc ∧ (Instr.incAbx 0x01FF).addrMode = some (.abx 0x01FF) := by decide

/-- SbcResult: both values of `P_SBC_TWOS`. -/
theorem witness_SbcResult : (Instr.sbcZp 0x10).mnemonic = .sbc ∧ (Instr.sbcZp 0x10).addrMode = some (.zp 0x10) ∧
    State.reset.cfg.sbcTwos = false ∧ ({ State.reset with cfg := { sbcTwos := true, bus := .plainRam } } : State).cfg.sbcTwos = true := by decide

/-- CompareResult. -/
theorem witness_CompareResult : ((Instr.cpyImm 0x10).mnemonic, Reg.y) ∈ [(Mnemonic.cmp, Reg.a), (.cpx, .x), (.cpy, .y)] ∧
    (Instr.cpyImm 0x10).addrMode = some (.imm 0x10) := by decide

/-- IncrementRegisterResult. -/
theorem witness_IncrementRegister : (Instr.dey.mnemonic, Reg.y, 255) ∈
    [(Mnemonic.inx, Reg.x, 1), (.iny, .y, 1), (.dex, .x, 255), (.dey, .y, 255)] := by decide

/-- ShiftResult: a form of each clause. -/
theorem witness_ShiftResult : Instr.rorAcc.mnemonic.isShift = true ∧ Instr.rorAcc.addrMode = none ∧
    (Instr.rolZpx 0x10).mnemonic.isShift = true ∧ (Instr.rolZpx 0x10).addrMode = some (.zpx 0x10) := by decide

/-- JsrThenRtsReturns: the stack wraps between the two bytes, and the subroutine has stored elsewhere. -/
theorem witness_JsrThenRts : let s := vec 0 0 0 0x00 0 0x0601 [] []
    (∀ q ∈ [s.sp, s.sp - 1], isRam s.cfg (slot s q) = true) ∧
    ∃ t v, let u := hostWrite 0x0030 0x11 t
      exec (.jsr 0x8000) s = .next t ∧ u.sp = t.sp ∧ u.cfg = t.cfg ∧ u.mem ≠ t.mem ∧
      (∀ q ∈ [s.sp, s.sp - 1], Memory.read u.mem (slot s q).toNat = Memory.read t.mem (slot s q).toNat) ∧
      exec .rts u = .next v ∧ v.pc = 0x0603 :=
  ⟨by decide, _, _, rfl, rfl, rfl, by decide, by decide, rfl, by decide⟩

/-- BranchResult: taken and not taken. -/
theorem witness_BranchResult : (Instr.bcc 0x05 |>.mnemonic, Flag.c, false) ∈
    [(Mnemonic.bcc, Flag.c, false), (.bcs, .c, true), (.beq, .z, true), (.bne, .z, false),
      (.bmi, .n, true), (.bpl, .n, false), (.bvc, .v, false), (.bvs, .v, true)] ∧
    (Instr.bcc 0x05).addrMode = some (.rel 0x05) ∧ getFlag .c State.reset = false ∧
    getFlag .c { State.reset with p := 0x01 } ≠ false := by decide

/-- FlagToggleResult. -/
theorem witness_FlagToggle : (Instr.sed.mnemonic, Flag.d, true) ∈
    [(Mnemonic.clc, Flag.c, false), (.cld, .d, false), (.cli, .i, false), (.clv, .v, false),
      (.sec, .c, true), (.sed, .d, true), (.sei, .i, true)] := by decide

/-- BrkThenRtiRestores: the stack wraps among the three bytes, and the handler has stored elsewhere. -/
theorem witness_BrkThenRti : let s := vec 0 0 0 0x01 0xCF 0x0601 [] []
    (∀ q ∈ [s.sp, s.sp - 1, s.sp - 2], isRam s.cfg (slot s q) = true) ∧
    ∃ t v, let u := hostWrite 0x0030 0x11 t
      exec .brk s = .next t ∧ u.sp = t.sp ∧ u.cfg = t.cfg ∧ u.mem ≠ t.mem ∧
      (∀ q ∈ [s.sp, s.sp - 1, s.sp - 2], Memory.read u.mem (slot s q).toNat = Memory.read t.mem (slot s q).toNat) ∧
      exec .rti u = .next v ∧ v.pc = 0x0602 :=
  ⟨by decide, _, _, rfl, rfl, rfl, by decide, by decide, rfl, by decide⟩

/-- CellsOutsidePlainRamAreKept: a stack slot and an address in a ROM, and a store to it. -/
theorem witness_CellsOutsidePlainRam : isRam twoWindows 0xF000 = false ∧ backing twoWindows 0xF000 = some .rom ∧
    (let s := { State.reset with cfg := { twoWindows with stackBase := 0xF000 } }
     isRam s.cfg (slot s s.sp) = false) ∧
    ∃ t, exec (.staAbs 0xF000) { State.reset with cfg := twoWindows } = .next t :=
  ⟨by decide, by decide, by decide, _, rfl⟩

/-- BusFollowsItsParameter: an address of each kind, and a listed answer and effect. -/
theorem witness_BusFollows : isExternal twoWindows 0x1FFF = false ∧ isRam twoWindows 0x2001 = true ∧
    backing twoWindows 0xFFFF = some .rom ∧ isExternal twoWindows 0x2000 = true ∧
    twoWindows.bus.answers.lookup (0, 0x2000) = some (0x41, 1) ∧
    twoWindows.bus.effects.lookup (1, 0x2000, 0x00) = some 0 := by decide

/-- EveryBusIsAValueOfTheParameter: the second of two accesses is a read in an external window. -/
theorem witness_EveryBus : ([.write 0x2000 0x00, .read 0x2000 0x41] : List BusAccess)[1]? = some (.read 0x2000 0x41) ∧
    isExternal twoWindows 0x2000 = true := by decide

end Sys2Proof.Tests
end

section
/-! PROOFS of the family 00_scope.md: the parameters of R6 under Steps, and the bus as a parameter (R41, R42). -/

namespace Sys2Proof.Machine

/-! ## Every Step keeps the parameters and counts its reads (R6) -/

/-- From `s` to `t` no parameter has changed and the count of bus reads has not fallen. -/
structure KeepsParameters (s t : State) : Prop where
  cfg      : t.cfg = s.cfg
  busReads : s.busReads ≤ t.busReads

theorem KeepsParameters.refl (s : State) : KeepsParameters s s := ⟨rfl, Nat.le_refl _⟩

theorem KeepsParameters.trans {s t u : State} (h : KeepsParameters s t) (h' : KeepsParameters t u) :
    KeepsParameters s u :=
  ⟨h'.cfg.trans h.cfg, h.busReads.trans h'.busReads⟩

/-- An operation that makes no traffic of its own after its resolver or operand read has reached `u`. -/
theorem KeepsParameters.of_sameTraffic {regs : List Reg} {flags : List Flag} {cells : List Word} {s u t : State}
    (hu : KeepsParameters s u) (hframe : Frame regs flags cells s t) (htraffic : SameTraffic u t) :
    KeepsParameters s t :=
  ⟨hframe.cfg, hu.busReads.trans htraffic.busReads.ge⟩

/-- An operation that makes listed transactions after its resolver has reached `u`. -/
theorem KeepsParameters.of_made {regs : List Reg} {flags : List Flag} {cells : List Word} {accesses : List BusAccess}
    {s u t : State} (hu : KeepsParameters s u) (hframe : Frame regs flags cells s t) (hmade : Made accesses u t) :
    KeepsParameters s t :=
  ⟨hframe.cfg, hu.busReads.trans (hmade.busReads ▸ Nat.le_add_right _ _)⟩

theorem keepsParameters_ea (opcode : Byte) (m : AddrMode) (s : State) : KeepsParameters s (ea opcode m s).2 :=
  ⟨ea_cfg opcode m s, busReads_ea_le opcode m s⟩

theorem keepsParameters_operand (opcode : Byte) (m : AddrMode) (s : State) : KeepsParameters s (operand opcode m s).2 :=
  ⟨operand_cfg opcode m s, busReads_operand_le opcode m s⟩

theorem keepsParameters_writePc (w : Word) (s : State) : KeepsParameters s (writePc w s) := ⟨rfl, Nat.le_refl _⟩

theorem keepsParameters_addBonus (k : Nat) (s : State) : KeepsParameters s (addBonus k s) := ⟨rfl, Nat.le_refl _⟩

theorem keepsParameters_push8 (v : Byte) (s : State) : KeepsParameters s (push8 v s) := ⟨rfl, Nat.le_refl _⟩

theorem keepsParameters_pull8 (s : State) : KeepsParameters s (pull8 s).2 := ⟨rfl, Nat.le_succ _⟩

theorem keepsParameters_pushWord (w : Word) (s : State) : KeepsParameters s (pushWord w s) :=
  (keepsParameters_push8 _ _).trans (keepsParameters_push8 _ _)

theorem keepsParameters_pullWord (s : State) : KeepsParameters s (pullWord s).2 :=
  (keepsParameters_pull8 s).trans (keepsParameters_pull8 _)

theorem keepsParameters_addWithCarry (v : Byte) (s : State) : KeepsParameters s (addWithCarry v s) := by
  obtain ⟨-, -, -, -, hframe, htraffic, -⟩ := addWithCarry_spec v s
  exact (KeepsParameters.refl s).of_sameTraffic hframe htraffic

theorem keepsParameters_branch (f : Flag) (value : Bool) (m : AddrMode) (opcode : Byte) (s : State) :
    KeepsParameters s (branch f value m opcode s) := by
  have ho := keepsParameters_operand opcode m s
  simp only [branch]
  split
  · exact (ho.trans (keepsParameters_addBonus _ _)).trans (keepsParameters_writePc _ _)
  · exact ho.trans (keepsParameters_writePc _ _)

theorem keepsParameters_call (m : AddrMode) (opcode : Byte) (s : State) : KeepsParameters s (call m opcode s) := by
  simp only [call]
  exact ((keepsParameters_ea opcode m s).trans (keepsParameters_pushWord _ _)).trans (keepsParameters_writePc _ _)

theorem keepsParameters_returnFromCall (opcode : Byte) (s : State) : KeepsParameters s (returnFromCall opcode s) :=
  (keepsParameters_pullWord s).trans (keepsParameters_writePc _ _)

/-- EXECUTE keeps the parameters, whatever the mnemonic and the addressing mode. -/
theorem keepsParameters_effect (op : Mnemonic) (mode : Option AddrMode) (opcode : Byte) (s : State) :
    KeepsParameters s (effect op mode opcode s) := by
  revert s
  apply effect_induction (fun f => ∀ s, KeepsParameters s (f s)) opcode op mode
  case hload =>
    intro r m s
    obtain ⟨-, -, hframe, htraffic, -⟩ := load_spec r m opcode s
    exact (keepsParameters_operand opcode m s).of_sameTraffic hframe htraffic
  case hstore =>
    intro r m s
    obtain ⟨-, hframe, hmade, -⟩ := store_spec r m opcode s
    exact (keepsParameters_ea opcode m s).of_made hframe hmade
  case htr =>
    intro src dst s
    obtain ⟨-, -, hframe, htraffic, -⟩ := transfer_spec src dst opcode s
    exact (KeepsParameters.refl s).of_sameTraffic hframe htraffic
  case htp =>
    intro src dst s
    obtain ⟨-, hframe, htraffic, -⟩ := transferPlain_spec src dst opcode s
    exact (KeepsParameters.refl s).of_sameTraffic hframe htraffic
  case hpa => exact fun s => keepsParameters_push8 s.a s
  case hpp => exact fun _ s => keepsParameters_push8 (pushedStatus s.p) s
  case hpla => exact fun s => (keepsParameters_pull8 s).trans ⟨rfl, Nat.le_refl _⟩
  case hplp => exact fun s => (keepsParameters_pull8 s).trans ⟨rfl, Nat.le_refl _⟩
  case hlog =>
    intro f m s
    obtain ⟨-, -, hframe, htraffic, -⟩ := logical_spec f m opcode s
    exact (keepsParameters_operand opcode m s).of_sameTraffic hframe htraffic
  case hbit =>
    intro m s
    obtain ⟨-, -, -, hframe, htraffic, -⟩ := bitTest_spec m opcode s
    exact (keepsParameters_operand opcode m s).of_sameTraffic hframe htraffic
  case hadc => exact fun m s => (keepsParameters_operand opcode m s).trans (keepsParameters_addWithCarry _ _)
  case hsbc => exact fun m s => (keepsParameters_operand opcode m s).trans (keepsParameters_addWithCarry _ _)
  case hcmp =>
    intro r m s
    obtain ⟨-, -, hframe, htraffic, -⟩ := compareReg_spec r m opcode s
    exact (keepsParameters_operand opcode m s).of_sameTraffic hframe htraffic
  case hsm =>
    intro f m s
    obtain ⟨-, -, hframe, hmade, -⟩ := stepMem_spec f m opcode s
    exact (keepsParameters_ea opcode m s).of_made hframe hmade
  case hsr =>
    intro f r s
    obtain ⟨-, -, hframe, htraffic, -⟩ := stepReg_spec f r opcode s
    exact (KeepsParameters.refl s).of_sameTraffic hframe htraffic
  case hsa =>
    intro f s
    obtain ⟨-, -, -, hframe, htraffic, -⟩ := shiftA_spec f opcode s
    exact (KeepsParameters.refl s).of_sameTraffic hframe htraffic
  case hshm =>
    intro f m s
    obtain ⟨-, -, -, hframe, hmade, -⟩ := shiftMem_spec f m opcode s
    exact (keepsParameters_ea opcode m s).of_made hframe hmade
  case hj =>
    intro m s
    obtain ⟨-, hframe, htraffic, -⟩ := jump_spec m opcode s
    exact (keepsParameters_ea opcode m s).of_sameTraffic hframe htraffic
  case hc => exact fun m s => keepsParameters_call m opcode s
  case hr => exact keepsParameters_returnFromCall opcode
  case hb => exact fun f value m _ s => keepsParameters_branch f value m opcode s
  case ht =>
    intro f value s
    obtain ⟨-, hframe, htraffic, -⟩ := toggle_spec f value opcode s
    exact (KeepsParameters.refl s).of_sameTraffic hframe htraffic
  case hbrk =>
    intro _ s
    obtain ⟨-, -, -, -, -, -, hframe, hmade, -⟩ := enterInterrupt_spec s
    exact (KeepsParameters.refl s).of_made hframe hmade
  case hid => exact KeepsParameters.refl
  case hrti =>
    intro s
    rw [returnFromInterrupt_eq]
    exact ⟨rfl, Nat.le_add_right _ _⟩

theorem keepsParameters_step {s t : State} (h : step s = .next t) : KeepsParameters s t := by
  rcases step_cases h with ⟨-, rfl⟩ | ⟨-, i, u, rfl, -, -, hreads, hu⟩ | ⟨-, rfl⟩
  · exact .refl _
  · have hfetch : KeepsParameters s u := ⟨by rw [hu], hreads⟩
    have heffect := hfetch.trans (keepsParameters_effect i.mnemonic i.addrMode i.opcode u)
    exact ⟨(finish_cfg _ _).trans heffect.cfg, heffect.busReads.trans (finish_busReads _ _).ge⟩
  · rw [fetchOpcode_eq]
    exact ⟨rfl, Nat.le_succ _⟩

/-- Settles O14: what a Step can do (`step_cases`) is a fetch and an effect, and each operation keeps the parameters. -/
theorem stepKeepsTheParameters : Obligations.StepKeepsTheParameters := by
  intro s t h
  obtain ⟨hcfg, hreads⟩ := keepsParameters_step h
  exact ⟨hcfg, hreads⟩

/-! ## Transactions go where the parameter `Bus` says (R41, R42; assumption log 2) -/

/-- A listed answer is the outcome of the external read. -/
theorem externalRead_of_lookup {addr : Word} {s : State} {outcome : Byte × Nat}
    (h : s.cfg.bus.answers.lookup (s.device, addr) = some outcome) : externalRead addr s = outcome := by
  simp only [externalRead, h, Option.getD_some]

/-- A listed effect is the outcome of the external write. -/
theorem externalWrite_of_lookup {addr : Word} {v : Byte} {s : State} {next : Nat}
    (h : s.cfg.bus.effects.lookup (s.device, addr, v) = some next) : externalWrite addr v s = next := by
  simp only [externalWrite, h, Option.getD_some]

theorem backing_of_isExternal {c : Config} {addr : Word} (h : isExternal c addr = true) :
    backing c addr = some .external := by
  simpa only [isExternal, beq_iff_eq] using h

/-- An external window is not plain RAM. -/
theorem isRam_of_isExternal {c : Config} {addr : Word} (h : isExternal c addr = true) : isRam c addr = false := by
  simp only [isRam, backing_of_isExternal h]; rfl

theorem isRam_of_rom {c : Config} {addr : Word} (h : backing c addr = some .rom) : isRam c addr = false := by
  simp only [isRam, h]; rfl

theorem isExternal_of_rom {c : Config} {addr : Word} (h : backing c addr = some .rom) : isExternal c addr = false := by
  simp only [isExternal, h]; rfl

theorem busRead_of_not_external {addr : Word} {s : State} (h : isExternal s.cfg addr = false) :
    busRead addr s = (Memory.read s.mem addr.toNat, { s with
      bus := s.bus ++ [.read addr (Memory.read s.mem addr.toNat)], busReads := s.busReads + 1 }) := by
  simp only [busRead, busValue, h, Bool.false_eq_true, if_false]

theorem busRead_of_answer {addr : Word} {v : Byte} {s : State} {next : Nat} (h : isExternal s.cfg addr = true)
    (hlisted : s.cfg.bus.answers.lookup (s.device, addr) = some (v, next)) :
    busRead addr s = (v, { s with bus := s.bus ++ [.read addr v], busReads := s.busReads + 1, device := next }) := by
  simp only [busRead, busValue, h, externalRead_of_lookup hlisted, if_true]

theorem busWrite_of_ram {addr : Word} {s : State} (v : Byte) (h : isRam s.cfg addr = true) :
    busWrite addr v s = { s with mem := Memory.write addr.toNat v s.mem, bus := s.bus ++ [.write addr v] } := by
  simp only [busWrite, h, isExternal_of_isRam h, Bool.false_eq_true, if_false, if_true]

theorem busWrite_of_rom {addr : Word} {s : State} (v : Byte) (h : backing s.cfg addr = some .rom) :
    busWrite addr v s = { s with bus := s.bus ++ [.write addr v] } := by
  simp only [busWrite, isRam_of_rom h, isExternal_of_rom h, Bool.false_eq_true, if_false]

theorem busWrite_of_effect {addr : Word} {v : Byte} {s : State} {next : Nat} (h : isExternal s.cfg addr = true)
    (hlisted : s.cfg.bus.effects.lookup (s.device, addr, v) = some next) :
    busWrite addr v s = { s with bus := s.bus ++ [.write addr v], device := next } := by
  simp only [busWrite, h, isRam_of_isExternal h, externalWrite_of_lookup hlisted, Bool.false_eq_true, if_false, if_true]

/-- Settles O55: one lemma for each backing of the address and each kind of transaction. -/
theorem busFollowsItsParameter : Obligations.BusFollowsItsParameter := fun _ v _ =>
  ⟨busRead_of_not_external, fun h _ => busRead_of_answer h, busWrite_of_ram v, busWrite_of_rom v,
    fun h _ => busWrite_of_effect h⟩

/-! ## Every pair of functions is a value of the parameter, on a finite run (R6; assumption log 2)

The tables list the pair's outcome for every state the run passes through and every address, with its byte, it accesses.
Every entry is a value of the pair, so a lookup finds the pair's own outcome. -/

/-- The address of a transaction and the byte it carries. -/
def BusAccess.target : BusAccess → Word × Byte
  | .read addr v => (addr, v)
  | .write addr v => (addr, v)

section
variable (c : Config) (reads : Nat → Word → Byte × Nat) (writes : Nat → Word → Byte → Nat)

/-- The states behind the external windows that the pair passes through on a run, the last one included. -/
def statesReached (accesses : List BusAccess) (device : Nat) : List Nat :=
  accesses.inits.map fun l => driven c reads writes l device

/-- The parameter `Bus`, on the windows of `c`, whose tables hold what the pair does on a run. -/
def busOfRun (accesses : List BusAccess) (device : Nat) : Bus where
  windows := c.bus.windows
  answers := (statesReached c reads writes accesses device ×ˢ accesses.map fun a => a.target.1).map fun k =>
    (k, reads k.1 k.2)
  effects := (statesReached c reads writes accesses device ×ˢ accesses.map BusAccess.target).map fun k =>
    (k, writes k.1 k.2.1 k.2.2)

variable {c reads writes}

theorem busOfRun_windows (accesses : List BusAccess) (device : Nat) :
    (busOfRun c reads writes accesses device).windows = c.bus.windows := rfl

theorem driven_mem_statesReached {l accesses : List BusAccess} (device : Nat) (h : l <+: accesses) :
    driven c reads writes l device ∈ statesReached c reads writes accesses device :=
  List.mem_map_of_mem ((List.mem_inits _ _).mpr h)

theorem busOfRun_answers {accesses : List BusAccess} {device d : Nat} {a : BusAccess}
    (hd : d ∈ statesReached c reads writes accesses device) (ha : a ∈ accesses) :
    (busOfRun c reads writes accesses device).answers.lookup (d, a.target.1) = some (reads d a.target.1) :=
  List.lookup_graph (fun k : Nat × Word => reads k.1 k.2)
    (List.mem_product.mpr ⟨hd, List.mem_map_of_mem (f := fun a => a.target.1) ha⟩)

theorem busOfRun_effects {accesses : List BusAccess} {device d : Nat} {a : BusAccess}
    (hd : d ∈ statesReached c reads writes accesses device) (ha : a ∈ accesses) :
    (busOfRun c reads writes accesses device).effects.lookup (d, a.target) = some (writes d a.target.1 a.target.2) :=
  List.lookup_graph (fun k : Nat × Word × Byte => writes k.1 k.2.1 k.2.2)
    (List.mem_product.mpr ⟨hd, List.mem_map_of_mem ha⟩)

theorem driven_append (l r : List BusAccess) (device : Nat) :
    driven c reads writes (l ++ r) device = driven c reads writes r (driven c reads writes l device) := by
  induction l generalizing device with
  | nil => rfl
  | cons a l ih => cases a <;> exact ih _

/-- Where the windows lie decides what is external, and nothing else does. -/
theorem isExternal_of_windows {c c' : Config} (h : c'.bus.windows = c.bus.windows) (addr : Word) :
    isExternal c' addr = isExternal c addr := by
  simp only [isExternal, backing, h]

/-- One transaction whose outcomes are listed as the pair's own leaves the state the pair leads to. -/
theorem afterAccesses_singleton_device {a : BusAccess} {u : State} (hwindows : u.cfg.bus.windows = c.bus.windows)
    (hanswer : u.cfg.bus.answers.lookup (u.device, a.target.1) = some (reads u.device a.target.1))
    (heffect : u.cfg.bus.effects.lookup (u.device, a.target) = some (writes u.device a.target.1 a.target.2)) :
    (afterAccesses [a] u).device = driven c reads writes [a] u.device := by
  cases a with
  | read addr v =>
    have houtcome : externalRead addr u = reads u.device addr := externalRead_of_lookup hanswer
    simp only [afterAccesses, driven, busRead, isExternal_of_windows hwindows, houtcome]
  | write addr v =>
    have houtcome : externalWrite addr v u = writes u.device addr v := externalWrite_of_lookup heffect
    simp only [afterAccesses, driven, busWrite, isExternal_of_windows hwindows, houtcome]

/-- After the first transactions of the run, however many, the state behind the windows is the one the pair leads to. -/
theorem afterAccesses_busOfRun_device {accesses l : List BusAccess} {t : State}
    (hbus : t.cfg.bus = busOfRun c reads writes accesses t.device) (hl : l <+: accesses) :
    (afterAccesses l t).device = driven c reads writes l t.device := by
  induction l using List.reverseRecOn with
  | nil => rfl
  | append_singleton l a ih =>
    have hbefore : l <+: accesses := (List.prefix_append l [a]).trans hl
    have ha : a ∈ accesses := hl.subset (by simp)
    have hreached := driven_mem_statesReached (c := c) (reads := reads) (writes := writes) t.device hbefore
    rw [afterAccesses_append, driven_append, ← ih hbefore]
    rw [← ih hbefore] at hreached
    apply afterAccesses_singleton_device <;> rw [afterAccesses_cfg, hbus]
    · exact busOfRun_windows _ _
    · exact busOfRun_answers hreached ha
    · exact busOfRun_effects hreached ha

/-- A read of the run in an external window answers the pair's byte. -/
theorem busValue_afterAccesses_busOfRun {accesses l : List BusAccess} {t : State} {addr : Word} {v : Byte}
    (hbus : t.cfg.bus = busOfRun c reads writes accesses t.device) (hl : l <+: accesses)
    (hread : .read addr v ∈ accesses) (hexternal : isExternal c addr = true) :
    busValue addr (afterAccesses l t) = (reads (driven c reads writes l t.device) addr).1 := by
  have hanswer : (afterAccesses l t).cfg.bus.answers.lookup ((afterAccesses l t).device, addr) =
      some (reads (driven c reads writes l t.device) addr) := by
    rw [afterAccesses_cfg, afterAccesses_busOfRun_device hbus hl, hbus]
    exact busOfRun_answers (driven_mem_statesReached _ hl) hread
  have hwindows : t.cfg.bus.windows = c.bus.windows := by rw [hbus, busOfRun_windows]
  have hwindow : isExternal (afterAccesses l t).cfg addr = true := by
    rw [afterAccesses_cfg, isExternal_of_windows hwindows, hexternal]
  rw [busValue, if_pos hwindow, externalRead_of_lookup hanswer]

end

/-- Settles O56: the bus of the run itself, whose tables hold the pair's outcomes wherever the run reaches. -/
theorem everyBusIsAValueOfTheParameter : Obligations.EveryBusIsAValueOfTheParameter := by
  intro reads writes s accesses
  refine ⟨busOfRun s.cfg reads writes accesses s.device, busOfRun_windows _ _, fun n => ⟨?_, fun addr v hn hexternal => ?_⟩⟩
  · exact afterAccesses_busOfRun_device rfl (List.take_prefix n accesses)
  · exact busValue_afterAccesses_busOfRun rfl (List.take_prefix n accesses) (List.mem_of_getElem? hn) hexternal

end Sys2Proof.Machine
end

section
/-! PROOFS of the family 10_state.md: what each instruction may change (R14), the invariant of every Step, the fault latch and
the cycle counter, the flag primitives, and what steers no result. -/

namespace Sys2Proof.Machine


/-! ## What an instruction's row of the table says of its effect (R14, R28, R30) -/

/-- From `s` to `t` an operation has changed no register, flag or memory that row `i` of R14's table does not mark, has kept
the canonical form of memory, and has charged nothing but a bonus of the row's class. -/
structure KeepsRow (i : Instr) (s t : State) : Prop where
  regs   : KeepsRegs (ruleWrites i).1 s t
  flags  : KeepsFlags (ruleWrites i).2 s t
  mem    : ruleWritesMemory i = false → t.mem = s.mem
  wf     : Memory.wf s.mem = true → Memory.wf t.mem = true
  halted : t.halted = s.halted
  cycles : t.cycles = s.cycles
  bonus  : t.bonus = s.bonus ∨ chargesPageCross i.opcode = true ∧ t.bonus = s.bonus + 1 ∨
    i.mnemonic.isBranch = true ∧ t.bonus ≤ s.bonus + 2

theorem KeepsRow.refl (i : Instr) (s : State) : KeepsRow i s s :=
  ⟨fun _ _ => rfl, fun _ _ => rfl, fun _ => rfl, id, rfl, rfl, .inl rfl⟩

section
variable {i : Instr} {regs : List Reg} {flags : List Flag} {cells : List Word} {s t : State}

/-- An operation that leaves memory alone, and accrues what the resolver does. -/
theorem Frame.keepsRow (h : Frame regs flags cells s t) (hrow : ruleWrites i = (regs, flags)) (hmem : t.mem = s.mem)
    (hcycles : t.cycles = s.cycles)
    (hbonus : t.bonus = s.bonus ∨ chargesPageCross i.opcode = true ∧ t.bonus = s.bonus + 1) : KeepsRow i s t where
  regs := by rw [hrow]; exact h.regs
  flags := by rw [hrow]; exact h.flags
  mem _ := hmem
  wf hwf := by rwa [hmem]
  halted := h.halted
  cycles := hcycles
  bonus := hbonus.imp_right .inl

/-- An operation of a row that marks memory as written. -/
theorem Frame.keepsRow_of_writes (h : Frame regs flags cells s t) (hrow : ruleWrites i = (regs, flags))
    (hwrites : ruleWritesMemory i = true) (hwf : Memory.wf s.mem = true → Memory.wf t.mem = true)
    (hcycles : t.cycles = s.cycles)
    (hbonus : t.bonus = s.bonus ∨ chargesPageCross i.opcode = true ∧ t.bonus = s.bonus + 1) : KeepsRow i s t where
  regs := by rw [hrow]; exact h.regs
  flags := by rw [hrow]; exact h.flags
  mem hnot := by rw [hwrites] at hnot; cases hnot
  wf := hwf
  halted := h.halted
  cycles := hcycles
  bonus := hbonus.imp_right .inl

end

section
variable {i : Instr} (m : AddrMode) (s : State)

theorem keepsRow_load (r : Reg) (hrow : ruleWrites i = ([r], [.z, .n])) : KeepsRow i s (load r m i.opcode s) := by
  obtain ⟨-, -, hframe, htraffic, hclock⟩ := load_spec r m i.opcode s
  exact hframe.keepsRow hrow (by simp [load]) hclock.cycles
    (by rw [htraffic.bonus]; exact bonus_operand i.opcode m s)

theorem keepsRow_store (r : Reg) (hrow : ruleWrites i = ([], [])) (hwrites : ruleWritesMemory i = true) :
    KeepsRow i s (store r m i.opcode s) := by
  obtain ⟨-, hframe, -, hbonus, hclock⟩ := store_spec r m i.opcode s
  exact hframe.keepsRow_of_writes hrow hwrites (fun hwf => wf_busWrite _ _ (by rwa [ea_mem])) hclock.cycles
    (by rw [hbonus]; exact bonus_ea i.opcode m s)

theorem keepsRow_transfer (src dst : Reg) (hrow : ruleWrites i = ([dst], [.z, .n])) :
    KeepsRow i s (transfer src dst i.opcode s) := by
  obtain ⟨-, -, hframe, htraffic, hclock⟩ := transfer_spec src dst i.opcode s
  exact hframe.keepsRow hrow (by simp [transfer]) hclock.cycles (.inl htraffic.bonus)

theorem keepsRow_transferPlain (src dst : Reg) (hrow : ruleWrites i = ([dst], [])) :
    KeepsRow i s (transferPlain src dst i.opcode s) := by
  obtain ⟨-, hframe, htraffic, hclock⟩ := transferPlain_spec src dst i.opcode s
  exact hframe.keepsRow hrow (by simp [transferPlain]) hclock.cycles (.inl htraffic.bonus)

theorem keepsRow_push8 (v : Byte) (hrow : ruleWrites i = ([.sp], [])) (hwrites : ruleWritesMemory i = true) :
    KeepsRow i s (push8 v s) := by
  obtain ⟨-, -, hframe, -, hbonus, hclock⟩ := push8_spec v s
  exact hframe.keepsRow_of_writes hrow hwrites (wf_push8 v) hclock.cycles (.inl hbonus)

theorem keepsRow_pullA (hrow : ruleWrites i = ([.a, .sp], [.z, .n])) : KeepsRow i s (pullA i.opcode s) := by
  have hframe : Frame [.a, .sp] [.z, .n] [] s (pullA i.opcode s) := by
    refine ⟨fun r hr => ?_, fun f hf => ?_, keepsCells_of_mem rfl, rfl, rfl⟩
    · simp at hr; simp [pullA, hr]
    · simp at hf; simp [pullA, hf]
  exact hframe.keepsRow hrow rfl rfl (.inl rfl)

/-- PLP and RTI write all of P. -/
theorem keepsFlags_all (s t : State) : KeepsFlags [.c, .z, .i, .d, .b, .u, .v, .n] s t := by
  intro f hf
  cases f <;> simp at hf

theorem keepsRow_pullP (hrow : ruleWrites i = ([.sp], [.c, .z, .i, .d, .b, .u, .v, .n])) :
    KeepsRow i s (pullP i.opcode s) := by
  have hframe : Frame [.sp] [.c, .z, .i, .d, .b, .u, .v, .n] [] s (pullP i.opcode s) := by
    refine ⟨fun r hr => ?_, keepsFlags_all _ _, keepsCells_of_mem rfl, rfl, rfl⟩
    exact (readReg_pull8 r s).trans (if_neg (by simpa using hr))
  exact hframe.keepsRow hrow rfl rfl (.inl rfl)

theorem keepsRow_logical (f : Byte → Byte → Byte) (hrow : ruleWrites i = ([.a], [.z, .n])) :
    KeepsRow i s (logical f m i.opcode s) := by
  obtain ⟨-, -, hframe, htraffic, hclock⟩ := logical_spec f m i.opcode s
  exact hframe.keepsRow hrow (by simp [logical]) hclock.cycles
    (by rw [htraffic.bonus]; exact bonus_operand i.opcode m s)

theorem keepsRow_bitTest (hrow : ruleWrites i = ([], [.z, .v, .n])) : KeepsRow i s (bitTest m i.opcode s) := by
  obtain ⟨-, -, -, hframe, htraffic, hclock⟩ := bitTest_spec m i.opcode s
  exact hframe.keepsRow hrow (by simp [bitTest]) hclock.cycles
    (by rw [htraffic.bonus]; exact bonus_operand i.opcode m s)

/-- ADC and SBC: the adder after the operand's read. -/
theorem keepsRow_addWithCarry (v : Byte) (hrow : ruleWrites i = ([.a], [.c, .z, .v, .n])) :
    KeepsRow i s (addWithCarry v (operand i.opcode m s).2) := by
  obtain ⟨-, -, -, -, hframe, htraffic, hclock⟩ := addWithCarry_spec v (operand i.opcode m s).2
  have hframe' : Frame [.a] [.c, .z, .v, .n] [] s (addWithCarry v (operand i.opcode m s).2) :=
    ⟨fun r hr => by simp [hframe.regs r hr], fun f hf => by simp [hframe.flags f hf],
      keepsCells_of_mem (operand_mem i.opcode m s), by simp [hframe.halted], by simp [hframe.cfg]⟩
  exact hframe'.keepsRow hrow (operand_mem i.opcode m s) (hclock.cycles.trans (operand_cycles i.opcode m s))
    (by rw [htraffic.bonus]; exact bonus_operand i.opcode m s)

theorem keepsRow_compareReg (r : Reg) (hrow : ruleWrites i = ([], [.c, .z, .n])) :
    KeepsRow i s (compareReg r m i.opcode s) := by
  obtain ⟨-, -, hframe, htraffic, hclock⟩ := compareReg_spec r m i.opcode s
  exact hframe.keepsRow hrow (by simp [compareReg]) hclock.cycles
    (by rw [htraffic.bonus]; exact bonus_operand i.opcode m s)

/-- The one write of a read-modify-write operation keeps the canonical form. -/
theorem wf_readThenWrite (opcode v : Byte) {s : State} (h : Memory.wf s.mem = true) :
    Memory.wf (busWrite (ea opcode m s).1 v (busRead (ea opcode m s).1 (ea opcode m s).2).2).mem = true :=
  wf_busWrite _ v (by rwa [busRead_mem, ea_mem])

theorem keepsRow_stepMem (f : Byte → Byte) (hrow : ruleWrites i = ([], [.z, .n])) (hwrites : ruleWritesMemory i = true) :
    KeepsRow i s (stepMem f m i.opcode s) := by
  obtain ⟨-, -, hframe, -, hbonus, hclock⟩ := stepMem_spec f m i.opcode s
  exact hframe.keepsRow_of_writes hrow hwrites (wf_readThenWrite m i.opcode _) hclock.cycles
    (by rw [hbonus]; exact bonus_ea i.opcode m s)

theorem keepsRow_stepReg (f : Byte → Byte) (r : Reg) (hrow : ruleWrites i = ([r], [.z, .n])) :
    KeepsRow i s (stepReg f r i.opcode s) := by
  obtain ⟨-, -, hframe, htraffic, hclock⟩ := stepReg_spec f r i.opcode s
  exact hframe.keepsRow hrow (by simp [stepReg]) hclock.cycles (.inl htraffic.bonus)

theorem keepsRow_shiftA (f : Bool → Byte → Byte × Bool) (hrow : ruleWrites i = ([.a], [.c, .z, .n])) :
    KeepsRow i s (shiftA f i.opcode s) := by
  obtain ⟨-, -, -, hframe, htraffic, hclock⟩ := shiftA_spec f i.opcode s
  exact hframe.keepsRow hrow (by simp [shiftA]) hclock.cycles (.inl htraffic.bonus)

theorem keepsRow_shiftMem (f : Bool → Byte → Byte × Bool) (hrow : ruleWrites i = ([], [.c, .z, .n]))
    (hwrites : ruleWritesMemory i = true) : KeepsRow i s (shiftMem f m i.opcode s) := by
  obtain ⟨-, -, -, hframe, -, hbonus, hclock⟩ := shiftMem_spec f m i.opcode s
  exact hframe.keepsRow_of_writes hrow hwrites (wf_readThenWrite m i.opcode _) hclock.cycles
    (by rw [hbonus]; exact bonus_ea i.opcode m s)

theorem keepsRow_jump (hrow : ruleWrites i = ([], [])) : KeepsRow i s (jump m i.opcode s) := by
  obtain ⟨-, hframe, htraffic, hcycles⟩ := jump_spec m i.opcode s
  exact hframe.keepsRow hrow (by simp [jump]) hcycles (by rw [htraffic.bonus]; exact bonus_ea i.opcode m s)

theorem keepsRow_call (w : Word) (hrow : ruleWrites i = ([.sp], [])) (hwrites : ruleWritesMemory i = true) :
    KeepsRow i s (call (.abs w) i.opcode s) := by
  obtain ⟨-, -, -, hframe, -, hbonus, hclock⟩ := pushWord_spec (s.pc + 1) s
  have hwf : Memory.wf s.mem = true → Memory.wf (pushWord (s.pc + 1) s).mem = true := fun h => wf_push8 _ (wf_push8 _ h)
  rw [call_eq]
  generalize pushWord (s.pc + 1) s = u at *
  have hframe' : Frame [.sp] [] [slot s s.sp, slot s (s.sp - 1)] s (writePc w u) :=
    ⟨fun r hr => (readReg_writePc r w u).trans (hframe.regs r hr), hframe.flags, hframe.cells, hframe.halted, hframe.cfg⟩
  exact hframe'.keepsRow_of_writes hrow hwrites hwf hclock.cycles (.inl hbonus)

theorem keepsRow_returnFromCall (hrow : ruleWrites i = ([.sp], [])) : KeepsRow i s (returnFromCall i.opcode s) := by
  have hframe : Frame [.sp] [] [] s (returnFromCall i.opcode s) := by
    rw [returnFromCall_eq, pullWord_eq]
    refine ⟨fun r hr => ?_, fun _ _ => rfl, keepsCells_of_mem rfl, rfl, rfl⟩
    cases r with
    | sp => simp at hr
    | a | x | y => rfl
  exact hframe.keepsRow hrow rfl rfl (.inl rfl)

theorem keepsRow_branch (f : Flag) (value : Bool) (off : Byte) (hrow : ruleWrites i = ([], []))
    (hbranch : i.mnemonic.isBranch = true) : KeepsRow i s (branch f value (.rel off) i.opcode s) := by
  obtain ⟨htaken, hnot, hframe, -, hcycles⟩ := branch_spec f value off i.opcode s
  have hmem : (branch f value (.rel off) i.opcode s).mem = s.mem := by
    simp only [branch]
    split <;> rfl
  have hbonus : (branch f value (.rel off) i.opcode s).bonus ≤ s.bonus + 2 := by
    by_cases h : getFlag f s = value
    · rw [(htaken h).2]
      split <;> omega
    · rw [(hnot h).2]
      omega
  refine ⟨?_, ?_, fun _ => hmem, fun hwf => by rwa [hmem], hframe.halted, hcycles, .inr (.inr ⟨hbranch, hbonus⟩)⟩
  · rw [hrow]; exact hframe.regs
  · rw [hrow]; exact hframe.flags

theorem keepsRow_toggle (f : Flag) (value : Bool) (hrow : ruleWrites i = ([], [f])) :
    KeepsRow i s (toggle f value i.opcode s) := by
  obtain ⟨-, hframe, -, -⟩ := toggle_spec f value i.opcode s
  exact hframe.keepsRow hrow rfl rfl (.inl rfl)

/-- BRK changes memory by its three pushes alone. -/
theorem enterInterrupt_mem (s : State) :
    (enterInterrupt s).mem = (push8 (pushedStatus s.p) (pushWord (s.pc + 1) s)).mem := by
  rw [enterInterrupt_eq, writePc_mem, busReadWord, busReadPair_eq]
  rfl

theorem keepsRow_enterInterrupt (hrow : ruleWrites i = ([.sp], [.i])) (hwrites : ruleWritesMemory i = true) :
    KeepsRow i s (enterInterrupt s) := by
  obtain ⟨-, -, -, -, -, -, hframe, -, hbonus, hcycles⟩ := enterInterrupt_spec s
  refine hframe.keepsRow_of_writes hrow hwrites (fun hwf => ?_) hcycles (.inl hbonus)
  rw [enterInterrupt_mem]
  exact wf_push8 _ (wf_push8 _ (wf_push8 _ hwf))

theorem keepsRow_returnFromInterrupt (hrow : ruleWrites i = ([.sp], [.c, .z, .i, .d, .b, .u, .v, .n])) :
    KeepsRow i s (returnFromInterrupt s) := by
  have hframe : Frame [.sp] [.c, .z, .i, .d, .b, .u, .v, .n] [] s (returnFromInterrupt s) := by
    rw [returnFromInterrupt_eq]
    refine ⟨fun r hr => ?_, keepsFlags_all _ _, keepsCells_of_mem rfl, rfl, rfl⟩
    cases r with
    | sp => simp at hr
    | a | x | y => rfl
  exact hframe.keepsRow hrow rfl rfl (.inl rfl)

end

/-- EXECUTE keeps to the instruction's row of R14's table. -/
theorem keepsRow_effect (i : Instr) (s : State) : KeepsRow i s (effect i.mnemonic i.addrMode i.opcode s) := by
  cases i
  case ldaImm | ldaZp | ldaZpx | ldaAbs | ldaAbx | ldaAby | ldaIzx | ldaIzy => exact keepsRow_load _ s .a rfl
  case ldxImm | ldxZp | ldxZpy | ldxAbs | ldxAby => exact keepsRow_load _ s .x rfl
  case ldyImm | ldyZp | ldyZpx | ldyAbs | ldyAbx => exact keepsRow_load _ s .y rfl
  case staZp | staZpx | staAbs | staAbx | staAby | staIzx | staIzy => exact keepsRow_store _ s .a rfl rfl
  case stxZp | stxZpy | stxAbs => exact keepsRow_store _ s .x rfl rfl
  case styZp | styZpx | styAbs => exact keepsRow_store _ s .y rfl rfl
  case tax | tay | txa | tya | tsx => exact keepsRow_transfer s _ _ rfl
  case txs => exact keepsRow_transferPlain s .x .sp rfl
  case pha | php => exact keepsRow_push8 s _ rfl rfl
  case pla => exact keepsRow_pullA s rfl
  case plp => exact keepsRow_pullP s rfl
  case andImm | andZp | andZpx | andAbs | andAbx | andAby | andIzx | andIzy => exact keepsRow_logical _ s _ rfl
  case oraImm | oraZp | oraZpx | oraAbs | oraAbx | oraAby | oraIzx | oraIzy => exact keepsRow_logical _ s _ rfl
  case eorImm | eorZp | eorZpx | eorAbs | eorAbx | eorAby | eorIzx | eorIzy => exact keepsRow_logical _ s _ rfl
  case bitZp | bitAbs => exact keepsRow_bitTest _ s rfl
  case adcImm | adcZp | adcZpx | adcAbs | adcAbx | adcAby | adcIzx | adcIzy => exact keepsRow_addWithCarry _ s _ rfl
  case sbcImm | sbcZp | sbcZpx | sbcAbs | sbcAbx | sbcAby | sbcIzx | sbcIzy => exact keepsRow_addWithCarry _ s _ rfl
  case cmpImm | cmpZp | cmpZpx | cmpAbs | cmpAbx | cmpAby | cmpIzx | cmpIzy => exact keepsRow_compareReg _ s .a rfl
  case cpxImm | cpxZp | cpxAbs => exact keepsRow_compareReg _ s .x rfl
  case cpyImm | cpyZp | cpyAbs => exact keepsRow_compareReg _ s .y rfl
  case incZp | incZpx | incAbs | incAbx | decZp | decZpx | decAbs | decAbx => exact keepsRow_stepMem _ s _ rfl rfl
  case inx | iny | dex | dey => exact keepsRow_stepReg s _ _ rfl
  case aslAcc | lsrAcc | rolAcc | rorAcc => exact keepsRow_shiftA s _ rfl
  case aslZp | aslZpx | aslAbs | aslAbx | lsrZp | lsrZpx | lsrAbs | lsrAbx => exact keepsRow_shiftMem _ s _ rfl rfl
  case rolZp | rolZpx | rolAbs | rolAbx | rorZp | rorZpx | rorAbs | rorAbx => exact keepsRow_shiftMem _ s _ rfl rfl
  case jmpAbs | jmpInd => exact keepsRow_jump _ s rfl
  case jsr w => exact keepsRow_call s w rfl rfl
  case rts => exact keepsRow_returnFromCall s rfl
  case bcc | bcs | beq | bne | bmi | bpl | bvc | bvs => exact keepsRow_branch s _ _ _ rfl rfl
  case clc | cld | cli | clv | sec | sed | sei => exact keepsRow_toggle s _ _ rfl
  case brk => exact keepsRow_enterInterrupt s rfl rfl
  case nop => exact .refl _ s
  case rti => exact keepsRow_returnFromInterrupt s rfl


/-! ## What the opcode byte decides (R66, R68, R84) -/

/-- An illegal byte of R68 has no entry, and every other byte has one. -/
theorem table_isNone_eq : ∀ b : Byte, (table b).isNone = illegalBytes.contains b := by decide +kernel

theorem table_eq_none_iff_illegal (b : Byte) : table b = none ↔ b ∈ illegalBytes := by
  rw [← Option.isNone_iff_eq_none, table_isNone_eq, List.contains_iff_mem]

/-- The class `branch` is the class of the eight branches (R66, R71 (d)). -/
theorem allEntries_isBranch : (allEntries.all fun e => e.1.op.isBranch == (e.1.bonus == .branch)) = true := by
  decide +kernel

theorem isBranch_eq_of_table {b : Byte} {d : Descriptor} (h : table b = some d) :
    d.op.isBranch = (d.bonus == .branch) := by
  obtain ⟨e, hlookup, rfl⟩ := table_some h
  obtain ⟨hmem, -⟩ := lookup_some hlookup
  exact beq_iff_eq.mp (List.all_eq_true.mp allEntries_isBranch e (mapRow_subset _ hmem))

/-- The instructions a cell of the opcode map makes have the cell's own opcode byte. -/
def MakesOpcode (e : Entry) : Prop := ∀ l h, (e.2 l h).opcode = e.1.opcode

theorem mapRow_makesOpcode (n : Nat) : ∀ e ∈ mapRow n, MakesOpcode e := by
  rw [← List.forall_iff_forall_mem]
  unfold mapRow
  split
  all_goals
    repeat' apply And.intro
    all_goals exact fun _ _ => rfl

/-- A populated byte is the opcode of whatever its cell makes. -/
theorem make_opcode_of_lookup {b : Byte} {e : Entry} (h : lookup b = some e) (low high : Byte) :
    (e.2 low high).opcode = b := by
  obtain ⟨hmem, hopcode⟩ := lookup_some h
  rw [mapRow_makesOpcode _ e hmem low high, hopcode]

/-- What the row of an instruction's opcode byte says of the instruction. -/
theorem descriptor_of_instr {i : Instr} {d : Descriptor} (h : table i.opcode = some d) :
    d.opcode = i.opcode ∧ d.op = i.mnemonic ∧ d.length = i.tag.length := by
  obtain ⟨d', hd', hwf, hop, hmode, -⟩ := Laws.WellFormedRow.table_of_instr i
  obtain rfl : d' = d := Option.some.inj (hd'.symm.trans h)
  obtain ⟨e, hlookup, rfl⟩ := table_some h
  have hlength : e.1.lengthAgrees = true := ((Bool.and_eq_true _ _).mp hwf).2
  refine ⟨(lookup_some hlookup).2, hop, ?_⟩
  rw [← hmode]
  exact beq_iff_eq.mp hlength

/-- One, two or three bytes hold the operands of the three formats (R60 to R63). -/
theorem takeOperands_of_length (mode : ModeTag) {bytes : List Byte} (h : bytes.length = mode.length - 1) :
    ∃ low high, takeOperands mode.length bytes = some (low, high, []) := by
  have hmode : mode.length = 1 ∨ mode.length = 2 ∨ mode.length = 3 := by cases mode <;> simp [ModeTag.length]
  rcases hmode with hm | hm | hm <;> rw [hm] at h ⊢
  · obtain rfl := List.length_eq_zero_iff.mp h
    exact ⟨0, 0, rfl⟩
  · obtain ⟨low, rfl⟩ := List.length_eq_one_iff.mp h
    exact ⟨low, 0, rfl⟩
  · obtain ⟨low, high, rfl⟩ := List.length_eq_two.mp h
    exact ⟨low, high, rfl⟩

/-- A populated byte followed by as many bytes as its entry asks for is decoded, as an instruction of that opcode. -/
theorem decode_of_table {b : Byte} {d : Descriptor} {bytes : List Byte} (h : table b = some d)
    (hlength : bytes.length = d.length - 1) : ∃ i, decode (b :: bytes) = .ok (i, []) ∧ i.opcode = b := by
  obtain ⟨e, hlookup, rfl⟩ := table_some h
  have hopcode := make_opcode_of_lookup hlookup
  have hmode : e.1.length = (e.2 0 0).tag.length := (descriptor_of_instr (by rw [hopcode, h])).2.2
  rw [hmode] at hlength
  obtain ⟨low, high, htake⟩ := takeOperands_of_length _ hlength
  refine ⟨e.2 low high, ?_, hopcode low high⟩
  simp only [decode, hlookup, hmode, htake]

/-- FETCH of a byte without an entry reads that byte alone. -/
theorem fetch_of_table_none {s : State} (h : table (busAnswer s [] s.pc) = none) :
    fetch s = (none, (fetchOpcode s).2) := by
  simp only [fetch, fetchOpcode_eq, h]

/-- FETCH of a byte with an entry gives an instruction of that opcode. -/
theorem fetch_of_table_some {s : State} {d : Descriptor} (h : table (busAnswer s [] s.pc) = some d) :
    ∃ i u, fetch s = (some i, u) ∧ i.opcode = busAnswer s [] s.pc := by
  have hf : (fetchOpcode s).1 = busAnswer s [] s.pc := rfl
  obtain ⟨i, hdecode, hopcode⟩ := decode_of_table h (readBytes_length (d.length - 1) (fetchOpcode s).2.pc (fetchOpcode s).2)
  refine ⟨i, (readBytes (d.length - 1) (fetchOpcode s).2.pc (fetchOpcode s).2).2, ?_, hopcode⟩
  simp only [fetch, hf, h, hdecode]

/-- A Step of a running core on a byte without an entry is the illegal-opcode exception (R231). -/
theorem step_of_table_none {s t : State} (hrun : s.halted = false) (hstep : step s = .next t)
    (h : table (busAnswer s [] s.pc) = none) : t = takeIllegalOpcode (fetchOpcode s).2 := by
  simp only [step, hrun, fetch_of_table_none h] at hstep
  injection hstep with hstep
  exact hstep.symm

/-- A Step of a running core on a byte with an entry runs an instruction of that opcode, from a state that differs from the
start in PC, bonus and traffic (R85). -/
theorem step_of_table_some {s t : State} {d : Descriptor} (hrun : s.halted = false) (hstep : step s = .next t)
    (h : table (busAnswer s [] s.pc) = some d) :
    ∃ i u, i.opcode = busAnswer s [] s.pc ∧ exec i u = .next t ∧ u.bonus = 0 ∧
      u = { s with pc := u.pc, bonus := u.bonus, bus := u.bus, busReads := u.busReads, device := u.device } := by
  obtain ⟨i, u, hfetch, hopcode⟩ := fetch_of_table_some h
  simp only [step, hrun, hfetch] at hstep
  rcases fetch_cases s with ⟨i', u', hfetch', -, hbonus, -, hu⟩ | ⟨hnone, -⟩
  · obtain ⟨rfl, rfl⟩ : i = i' ∧ u = u' := by simpa [hfetch] using hfetch'
    exact ⟨i, u, hopcode, hstep, hbonus, hu⟩
  · rw [hfetch] at hnone
    cases hnone


/-! ## What an instruction does, from what its effect does -/

theorem exec_next {i : Instr} {s t : State} (h : exec i s = .next t) :
    t = finish i (effect i.mnemonic i.addrMode i.opcode s) := by
  rw [exec_eq] at h
  injection h with h
  exact h.symm

/-- An instruction that completes charges its base cost and its bonus (R86). -/
theorem charged_exec {i : Instr} {s t : State} (h : exec i s = .next t) : Charged i s t := by
  rw [exec_next h]
  exact charged_finish i (keepsRow_effect i s).cycles (keepsParameters_effect ..).cfg

theorem exec_cfg {i : Instr} {s t : State} (h : exec i s = .next t) : t.cfg = s.cfg := by
  rw [exec_next h, finish_cfg, (keepsParameters_effect ..).cfg]

theorem exec_halted {i : Instr} {s t : State} (h : exec i s = .next t) : t.halted = s.halted := by
  rw [exec_next h, finish_halted, (keepsRow_effect i s).halted]

/-! ## Which flags an instruction writes (R14, R22, R23) -/

/-- Settles O18: what `keepsRow_effect` says of EXECUTE, which ACCOUNT and ADVANCE leave alone. -/
theorem instructionsWriteOnlyWhatTheTableSays : Obligations.InstructionsWriteOnlyWhatTheTableSays := by
  intro i s t h
  obtain ⟨hregs, hflags, hmem, -⟩ := keepsRow_effect i s
  obtain rfl := exec_next h
  refine ⟨fun r hr => ?_, fun f hf => ?_, fun hw => ?_⟩
  · rw [readReg_finish, hregs r hr]
  · rw [getFlag_finish, hflags f hf]
  · rw [finish_mem, hmem hw]

theorem getFlag_restoredStatus (f : Flag) (v : Byte) (s : State) :
    getFlag f { s with p := restoredStatus v } = if f = .b then false else if f = .u then true else v.getLsbD f.pos := by
  cases f <;> simp [getFlag, restoredStatus, setFlag, Flag.pos]

/-- PLP and RTI load the Status register from a pulled byte, Break forced to 0 and Break2 to 1 (R141, R219). -/
theorem exists_restoredStatus {i : Instr} (h : i = .plp ∨ i = .rti) (s : State) :
    ∃ v, (effect i.mnemonic i.addrMode i.opcode s).p = restoredStatus v := by
  rcases h with rfl | rfl
  · exact ⟨(pull8 s).1, rfl⟩
  · exact ⟨(pull8 s).1, rfl⟩

theorem break_notMem_ruleWrites {i : Instr} (h : ¬ (i = .plp ∨ i = .rti)) :
    .b ∉ (ruleWrites i).2 ∧ .u ∉ (ruleWrites i).2 := by
  have hplp : i.mnemonic = .plp → i = .plp := by cases i <;> simp [Instr.mnemonic]
  have hrti : i.mnemonic = .rti → i = .rti := by cases i <;> simp [Instr.mnemonic]
  have hop : i.mnemonic ≠ .plp ∧ i.mnemonic ≠ .rti := ⟨fun e => h (.inl (hplp e)), fun e => h (.inr (hrti e))⟩
  unfold ruleWrites
  split <;> simp_all

/-- Settles O20: no row but those of PLP and RTI marks Break or Break2, and those two force both. -/
theorem breakFlagsAreWrittenByPlpAndRtiAlone : Obligations.BreakFlagsAreWrittenByPlpAndRtiAlone := by
  intro i s t h
  obtain rfl := exec_next h
  simp only [getFlag_finish]
  split
  · rename_i hi
    obtain ⟨v, hv⟩ := exists_restoredStatus hi s
    simp only [getFlag, hv]
    exact ⟨getFlag_restoredStatus .b v s, getFlag_restoredStatus .u v s⟩
  · rename_i hi
    obtain ⟨hb, hu⟩ := break_notMem_ruleWrites hi
    exact ⟨(keepsRow_effect i s).flags .b hb, (keepsRow_effect i s).flags .u hu⟩

/-! ## The invariant (R6, R22, R30, R58) -/

/-- EXECUTE keeps P.B = 0: only PLP and RTI write it, and they clear it (R22). -/
theorem getFlag_b_effect {i : Instr} {s : State} (h : getFlag .b s = false) :
    getFlag .b (effect i.mnemonic i.addrMode i.opcode s) = false := by
  have hb := breakFlagsAreWrittenByPlpAndRtiAlone i s _ (exec_eq i s)
  simp only [getFlag_finish] at hb
  split at hb
  · exact hb.1
  · exact hb.1.trans h

theorem stateInv_finish_effect {i : Instr} {s : State} (h : StateInv s) (hbonus : s.bonus = 0) :
    StateInv (finish i (effect i.mnemonic i.addrMode i.opcode s)) := by
  obtain ⟨hwf, hb, -, hcfg⟩ := h
  have hrow := keepsRow_effect i s
  refine ⟨by rw [finish_mem]; exact hrow.wf hwf, by rw [getFlag_finish]; exact getFlag_b_effect hb, ?_, ?_⟩
  · rw [finish_bonus]
    rcases hrow.bonus with hsame | ⟨-, hone⟩ | ⟨-, htwo⟩ <;> omega
  · rw [finish_cfg, (keepsParameters_effect ..).cfg]
    exact hcfg

/-- Settles O10: a Step leaves a halted core alone, runs an instruction from a fetched state, or sets `halted` (`step_cases`);
FETCH clears the bonus, and EXECUTE keeps to its row of the table. -/
theorem invariantKeptByEveryStep : Obligations.InvariantKeptByEveryStep := by
  intro s t h hstep
  rcases step_cases hstep with ⟨-, rfl⟩ | ⟨-, i, u, rfl, -, hbonus, -, hu⟩ | ⟨-, rfl⟩
  · exact h
  · obtain ⟨hwf, hb, -, hcfg⟩ := h
    refine stateInv_finish_effect ?_ hbonus
    rw [hu, hbonus]
    exact ⟨hwf, hb, Nat.zero_le 2, hcfg⟩
  · obtain ⟨hwf, hb, -, hcfg⟩ := h
    exact ⟨hwf, hb, Nat.zero_le 2, hcfg⟩

theorem getFlag_of_p_zero {s : State} (h : s.p = 0) (f : Flag) : getFlag f s = false := by
  simp [getFlag, h]

theorem wellFormed_default (bus : Bus) : (Config.default bus).wellFormed = true := by
  simp [Config.wellFormed, Config.default]

/-- Settles O11: creation and Reset set P and the bonus to 0. -/
theorem invariantAtCreationAndReset : Obligations.InvariantAtCreationAndReset := by
  have hreset : ∀ s : State, Memory.wf s.mem = true → s.cfg.wellFormed = true → StateInv (hostReset s) :=
    fun s hwf hcfg => ⟨hwf, getFlag_of_p_zero rfl .b, Nat.zero_le 2, hcfg⟩
  have hcreated : ∀ bus : Bus, StateInv (State.createdOn bus) := fun bus =>
    ⟨rfl, getFlag_of_p_zero rfl .b, Nat.zero_le 2, wellFormed_default bus⟩
  refine ⟨hcreated, ?_, hreset⟩
  rw [← reset_eq_hostReset_created]
  obtain ⟨hwf, -, -, hcfg⟩ := hcreated Bus.plainRam
  exact hreset State.created hwf hcfg

/-! ## The fault latch (R29, R231) and the cycle counter (R28, R86) -/

/-- Settles O13: `halted` is set where the opcode byte has no entry, and each instruction keeps it. -/
theorem haltedIsSetOnlyByIllegalOpcode : Obligations.HaltedIsSetOnlyByIllegalOpcode := by
  refine ⟨rfl, fun _ => rfl, fun _ _ _ => exec_halted, fun s t hrun hstep => ?_⟩
  rw [← table_eq_none_iff_illegal]
  cases htable : table (busAnswer s [] s.pc) with
  | none => simp [step_of_table_none hrun hstep htable]
  | some d =>
    obtain ⟨i, u, -, hexec, -, hu⟩ := step_of_table_some hrun hstep htable
    have hhalted : u.halted = s.halted := by rw [hu]
    simp [exec_halted hexec, hhalted, hrun]

/-- The bonus an instruction ends with, by the class of its opcode's entry (R30, R113, R193). -/
theorem bonus_exec_of_table {i : Instr} {d : Descriptor} {s t : State} (h : table i.opcode = some d) (hbonus : s.bonus = 0)
    (hexec : exec i s = .next t) :
    (d.bonus = .never → t.bonus = 0) ∧ (d.bonus = .pageCross → t.bonus ≤ 1) ∧ (d.bonus = .branch → t.bonus ≤ 2) := by
  have hcharges : chargesPageCross i.opcode = (d.bonus == .pageCross) := by simp only [chargesPageCross, h]
  have hbranch : i.mnemonic.isBranch = (d.bonus == .branch) := by
    rw [← (descriptor_of_instr h).2.1, isBranch_eq_of_table h]
  have hrow := (keepsRow_effect i s).bonus
  rw [hcharges, hbranch, hbonus, ← finish_bonus i, ← exec_next hexec] at hrow
  cases hclass : d.bonus <;> simp [hclass] at hrow ⊢ <;> omega

/-- Settles O12: ACCOUNT adds base cost and bonus, FETCH has cleared the bonus, and EXECUTE accrues what its class allows. -/
theorem stepChargesBaseCostAndBonus : Obligations.StepChargesBaseCostAndBonus := by
  refine ⟨fun s t d hrun hstep htable => ?_, fun s t hrun hstep htable => ?_, fun _ => rfl⟩
  · obtain ⟨i, u, hopcode, hexec, hbonus, hu⟩ := step_of_table_some hrun hstep htable
    rw [← hopcode] at htable
    have hcharged : Charged i u t := charged_exec hexec
    have hcycles : u.cycles = s.cycles := by rw [hu]
    have hcfg : u.cfg = s.cfg := by rw [hu]
    rw [Charged, hcycles, hcfg, ← (descriptor_of_instr htable).1] at hcharged
    exact ⟨hcharged, bonus_exec_of_table htable hbonus hexec⟩
  · obtain rfl := step_of_table_none hrun hstep htable
    exact ⟨rfl, rfl⟩

/-! ## The flag primitives (R27) -/

theorem hasFlag_twoPow (p : Byte) {k : Nat} (hk : k < 8) : hasFlag (BitVec.twoPow 8 k) p = p.getLsbD k := by
  have hne : BitVec.twoPow 8 k ≠ 0 := fun h => by simpa [hk] using congrArg (·.getLsbD k) h
  rw [hasFlag, BitVec.and_twoPow]
  cases p.getLsbD k
  · rfl
  · exact bne_iff_ne.mpr hne

/-- Settles O19, bit by bit. -/
theorem flagPrimitives : Obligations.FlagPrimitives := by
  refine ⟨rfl, fun bits p k hk => ?_, fun p k hk => ?_, fun p pos k b hpos _ => setBit_getLsbD p pos k b hpos, fun v => ?_⟩
  · simp [setFlag, clearFlag, hk]
  · have hmask : BitVec.ofNat 8 (2 ^ k) = BitVec.twoPow 8 k := by
      apply BitVec.eq_of_toNat_eq
      rw [BitVec.toNat_ofNat, BitVec.toNat_twoPow]
    rw [hmask, hasFlag_twoPow p hk]
  · rw [isNegative, BitVec.getLsbD_last v, decide_eq_true_iff]


/-! ## What steers no result (R20 to R23, R28)

Two runs of one instruction, from a state and from a variant of it: another Status byte, another cycle counter and another
cycle table. As far as the two Status bytes agree on the flags an operation reads, its results are variants of each other. -/

/-- A state with another Status byte, another cycle counter and another cycle table. -/
def State.varied (p : Byte) (n : Nat) (costs : List (Byte × Nat)) (s : State) : State :=
  { s with p := p, cycles := n, cfg := { s.cfg with cycleOverrides := costs } }

/-- `t` is a variant of `s`, with the same flags `seen`. -/
structure Alike (seen : List Flag) (n : Nat) (costs : List (Byte × Nat)) (s t : State) : Prop where
  varied : ∃ p, t = s.varied p n costs
  flags  : ∀ f ∈ seen, getFlag f t = getFlag f s

theorem readReg_varied (r : Reg) (p : Byte) (n : Nat) (costs : List (Byte × Nat)) (s : State) :
    readReg r (s.varied p n costs) = readReg r s := by cases r <;> rfl

theorem writeReg_varied (r : Reg) (v p : Byte) (n : Nat) (costs : List (Byte × Nat)) (s : State) :
    writeReg r v (s.varied p n costs) = (writeReg r v s).varied p n costs := by cases r <;> rfl

theorem indexed_varied (opcode : Byte) (base : Word) (index p : Byte) (n : Nat) (costs : List (Byte × Nat)) (s : State) :
    indexed opcode base index (s.varied p n costs) =
      ((indexed opcode base index s).1, (indexed opcode base index s).2.varied p n costs) := by
  simp only [indexed]
  split <;> rfl

theorem ea_varied (opcode : Byte) (m : AddrMode) (p : Byte) (n : Nat) (costs : List (Byte × Nat)) (s : State) :
    ea opcode m (s.varied p n costs) = ((ea opcode m s).1, (ea opcode m s).2.varied p n costs) := by
  cases m with
  | abx w => exact indexed_varied opcode w s.x p n costs s
  | aby w => exact indexed_varied opcode w s.y p n costs s
  | izy z => exact indexed_varied opcode (readPtrZp z s).1 s.y p n costs (readPtrZp z s).2
  | imm | rel | zp | zpx | zpy | abs | ind | izx => rfl

theorem operand_varied (opcode : Byte) (m : AddrMode) (p : Byte) (n : Nat) (costs : List (Byte × Nat)) (s : State) :
    operand opcode m (s.varied p n costs) = ((operand opcode m s).1, (operand opcode m s).2.varied p n costs) := by
  have hread : ∀ m : AddrMode, busRead (ea opcode m (s.varied p n costs)).1 (ea opcode m (s.varied p n costs)).2 =
      ((busRead (ea opcode m s).1 (ea opcode m s).2).1, (busRead (ea opcode m s).1 (ea opcode m s).2).2.varied p n costs) :=
    fun m => by rw [ea_varied]; rfl
  cases m with
  | imm | rel => rfl
  | zp | zpx | zpy | abs | abx | aby | ind | izx | izy => exact hread _

theorem finish_varied (i : Instr) (p : Byte) (n : Nat) (costs : List (Byte × Nat)) (s : State) :
    ∃ n', finish i (s.varied p n costs) = (finish i s).varied p n' costs := by
  unfold finish
  split <;> exact ⟨_, rfl⟩

section
variable {seen : List Flag} {n : Nat} {costs : List (Byte × Nat)} {s t : State}

/-! ### The operations over the state: what they read is the same, what they leave is alike -/

/-- An operation that neither reads nor writes what varies. -/
theorem Alike.map (h : Alike seen n costs s t) {g : State → State} (hp : ∀ u, (g u).p = u.p)
    (hg : ∀ p, g (s.varied p n costs) = (g s).varied p n costs) : Alike seen n costs (g s) (g t) := by
  obtain ⟨⟨p, rfl⟩, hflags⟩ := h
  refine ⟨⟨p, hg p⟩, fun f hf => ?_⟩
  rw [getFlag, getFlag, hp, hp]
  exact hflags f hf

theorem Alike.readReg_eq (h : Alike seen n costs s t) (r : Reg) : readReg r t = readReg r s := by
  obtain ⟨⟨p, rfl⟩, -⟩ := h
  exact readReg_varied r p n costs s

theorem Alike.pc_eq (h : Alike seen n costs s t) : t.pc = s.pc := by
  obtain ⟨⟨p, rfl⟩, -⟩ := h
  rfl

theorem Alike.bonus_eq (h : Alike seen n costs s t) : t.bonus = s.bonus := by
  obtain ⟨⟨p, rfl⟩, -⟩ := h
  rfl

theorem Alike.sbcTwos_eq (h : Alike seen n costs s t) : t.cfg.sbcTwos = s.cfg.sbcTwos := by
  obtain ⟨⟨p, rfl⟩, -⟩ := h
  rfl

theorem Alike.busRead_value_eq (h : Alike seen n costs s t) (addr : Word) : (busRead addr t).1 = (busRead addr s).1 := by
  obtain ⟨⟨p, rfl⟩, -⟩ := h
  rfl

theorem Alike.pull8_value_eq (h : Alike seen n costs s t) : (pull8 t).1 = (pull8 s).1 := by
  obtain ⟨⟨p, rfl⟩, -⟩ := h
  rfl

theorem Alike.ea_value_eq (h : Alike seen n costs s t) (opcode : Byte) (m : AddrMode) :
    (ea opcode m t).1 = (ea opcode m s).1 := by
  obtain ⟨⟨p, rfl⟩, -⟩ := h
  rw [ea_varied]

theorem Alike.operand_value_eq (h : Alike seen n costs s t) (opcode : Byte) (m : AddrMode) :
    (operand opcode m t).1 = (operand opcode m s).1 := by
  obtain ⟨⟨p, rfl⟩, -⟩ := h
  rw [operand_varied]

theorem Alike.writeFlag (h : Alike seen n costs s t) (f : Flag) (b : Bool) :
    Alike seen n costs (writeFlag f b s) (writeFlag f b t) := by
  obtain ⟨⟨p, rfl⟩, hflags⟩ := h
  refine ⟨⟨setBit f.pos b p, rfl⟩, fun g hg => ?_⟩
  rw [getFlag_writeFlag, getFlag_writeFlag, hflags g hg]

theorem Alike.setZN (h : Alike seen n costs s t) (v : Byte) : Alike seen n costs (setZN v s) (setZN v t) :=
  (h.writeFlag .z _).writeFlag .n _

/-- A Status byte loaded whole. -/
theorem Alike.loadStatus (h : Alike seen n costs s t) (p : Byte) : Alike seen n costs { s with p := p } { t with p := p } := by
  obtain ⟨⟨q, rfl⟩, -⟩ := h
  exact ⟨⟨p, rfl⟩, fun _ _ => rfl⟩

theorem Alike.writeReg (h : Alike seen n costs s t) (r : Reg) (v : Byte) :
    Alike seen n costs (writeReg r v s) (writeReg r v t) :=
  h.map (writeReg_p r v) fun p => writeReg_varied r v p n costs s

theorem Alike.writePc (h : Alike seen n costs s t) (w : Word) : Alike seen n costs (writePc w s) (writePc w t) :=
  h.map (fun _ => rfl) fun _ => rfl

theorem Alike.addBonus (h : Alike seen n costs s t) (k : Nat) : Alike seen n costs (addBonus k s) (addBonus k t) :=
  h.map (fun _ => rfl) fun _ => rfl

theorem Alike.busRead (h : Alike seen n costs s t) (addr : Word) : Alike seen n costs (busRead addr s).2 (busRead addr t).2 :=
  h.map (g := fun u => (Machine.busRead addr u).2) (fun _ => rfl) fun _ => rfl

theorem Alike.busWrite (h : Alike seen n costs s t) (addr : Word) (v : Byte) :
    Alike seen n costs (busWrite addr v s) (busWrite addr v t) :=
  h.map (fun _ => rfl) fun _ => rfl

theorem Alike.push8 (h : Alike seen n costs s t) (v : Byte) : Alike seen n costs (push8 v s) (push8 v t) :=
  h.map (fun _ => rfl) fun _ => rfl

theorem Alike.pull8 (h : Alike seen n costs s t) : Alike seen n costs (pull8 s).2 (pull8 t).2 :=
  h.map (g := fun u => (Machine.pull8 u).2) (fun _ => rfl) fun _ => rfl

theorem Alike.ea (h : Alike seen n costs s t) (opcode : Byte) (m : AddrMode) :
    Alike seen n costs (ea opcode m s).2 (ea opcode m t).2 :=
  h.map (g := fun u => (Machine.ea opcode m u).2) (ea_p opcode m) fun p => by rw [ea_varied]

theorem Alike.operand (h : Alike seen n costs s t) (opcode : Byte) (m : AddrMode) :
    Alike seen n costs (operand opcode m s).2 (operand opcode m t).2 :=
  h.map (g := fun u => (Machine.operand opcode m u).2) (operand_p opcode m) fun p => by rw [operand_varied]

theorem Alike.pushWord (h : Alike seen n costs s t) (w : Word) : Alike seen n costs (pushWord w s) (pushWord w t) :=
  (h.push8 _).push8 _

theorem Alike.pullWord (h : Alike seen n costs s t) : Alike seen n costs (pullWord s).2 (pullWord t).2 :=
  h.pull8.pull8

theorem Alike.pullWord_value_eq (h : Alike seen n costs s t) :
    (Machine.pullWord t).1 = (Machine.pullWord s).1 := by
  simp only [Machine.pullWord, h.pull8_value_eq, h.pull8.pull8_value_eq]

/-- PHP and BRK push the six flags other than Break and Break2, and force those two (R22, R23). -/
theorem getFlag_pushedStatus (f : Flag) (s : State) :
    getFlag f { s with p := pushedStatus s.p } = if f = .b ∨ f = .u then true else getFlag f s := by
  cases f <;> simp [getFlag, pushedStatus, setFlag, Flag.pos]

theorem Alike.pushedStatus_eq (h : Alike seen n costs s t) (hseen : ∀ f, f = .b ∨ f = .u ∨ f ∈ seen) :
    pushedStatus t.p = pushedStatus s.p := by
  apply flags_determine_p (s := { s with p := pushedStatus s.p }) (t := { t with p := pushedStatus t.p })
  intro f
  rw [getFlag_pushedStatus, getFlag_pushedStatus]
  rcases hseen f with rfl | rfl | hf
  · rfl
  · rfl
  · rw [h.flags f hf]

/-! ### The shared operations of the instructions -/

theorem Alike.addWithCarry (h : Alike seen n costs s t) (hc : .c ∈ seen) (v : Byte) :
    Alike seen n costs (addWithCarry v s) (addWithCarry v t) := by
  have ha : t.a = s.a := h.readReg_eq .a
  simp only [Machine.addWithCarry, ha, h.flags .c hc]
  exact (((h.writeFlag .c _).writeFlag .v _).writeReg .a _).setZN _

theorem Alike.branch (h : Alike seen n costs s t) {f : Flag} (hf : f ∈ seen) (value : Bool) (m : AddrMode) (opcode : Byte) :
    Alike seen n costs (branch f value m opcode s) (branch f value m opcode t) := by
  have ho := h.operand opcode m
  simp only [Machine.branch, h.operand_value_eq, ho.pc_eq, ho.flags f hf]
  split
  · exact (ho.addBonus _).writePc _
  · exact ho.writePc _

theorem Alike.returnFromInterrupt (h : Alike seen n costs s t) :
    Alike seen n costs (returnFromInterrupt s) (returnFromInterrupt t) := by
  have hloaded := h.pull8.loadStatus (restoredStatus (Machine.pull8 s).1)
  simp only [Machine.returnFromInterrupt, h.pull8_value_eq, hloaded.pullWord_value_eq]
  exact hloaded.pullWord.writePc _

theorem Alike.enterInterrupt (h : Alike seen n costs s t) (hpushed : pushedStatus t.p = pushedStatus s.p) :
    Alike seen n costs (enterInterrupt s) (enterInterrupt t) := by
  have hsaved := ((h.pushWord (s.pc + 1)).push8 (pushedStatus s.p)).writeFlag .i true
  have hlow := hsaved.busRead 0xFFFE
  simp only [Machine.enterInterrupt, busReadWord, busReadPair, h.pc_eq, hpushed, hsaved.busRead_value_eq,
    hlow.busRead_value_eq]
  exact (hlow.busRead _).writePc _

/-- EXECUTE from a state and from a variant of it leads to variants of each other, when they agree on C, Z, V and N, and on
all that is pushed where P is pushed. -/
theorem Alike.effect (h : Alike seen n costs s t) {op : Mnemonic} (hseen : ∀ f ∈ [Flag.c, .z, .v, .n], f ∈ seen)
    (hpushes : op = .php ∨ op = .brk → ∀ f, f = .b ∨ f = .u ∨ f ∈ seen) (mode : Option AddrMode) (opcode : Byte) :
    Alike seen n costs (effect op mode opcode s) (effect op mode opcode t) := by
  have hc : .c ∈ seen := hseen .c (by simp)
  revert s t
  apply effect_induction (fun g => ∀ s t, Alike seen n costs s t → Alike seen n costs (g s) (g t)) opcode op mode
  case hload =>
    intro r m s t h
    simp only [load, h.operand_value_eq]
    exact ((h.operand opcode m).writeReg r _).setZN _
  case hstore =>
    intro r m s t h
    simp only [store, h.ea_value_eq, (h.ea opcode m).readReg_eq]
    exact (h.ea opcode m).busWrite _ _
  case htr =>
    intro src dst s t h
    simp only [transfer, h.readReg_eq]
    exact (h.writeReg dst _).setZN _
  case htp =>
    intro src dst s t h
    simp only [transferPlain, h.readReg_eq]
    exact h.writeReg dst _
  case hpa =>
    intro s t h
    have ha : t.a = s.a := h.readReg_eq .a
    simp only [pushA, ha]
    exact h.push8 _
  case hpp =>
    intro hop s t h
    simp only [pushP, h.pushedStatus_eq (hpushes (.inl hop))]
    exact h.push8 _
  case hpla =>
    intro s t h
    simp only [pullA, h.pull8_value_eq]
    exact (h.pull8.writeReg .a _).setZN _
  case hplp =>
    intro s t h
    simp only [pullP, h.pull8_value_eq]
    exact h.pull8.loadStatus _
  case hlog =>
    intro f m s t h
    have ha : (Machine.operand opcode m t).2.a = (Machine.operand opcode m s).2.a := (h.operand opcode m).readReg_eq .a
    simp only [logical, h.operand_value_eq, ha]
    exact ((h.operand opcode m).writeReg .a _).setZN _
  case hbit =>
    intro m s t h
    have ha : (Machine.operand opcode m t).2.a = (Machine.operand opcode m s).2.a := (h.operand opcode m).readReg_eq .a
    simp only [bitTest, h.operand_value_eq, ha]
    exact (((h.operand opcode m).writeFlag .z _).writeFlag .n _).writeFlag .v _
  case hadc =>
    intro m s t h
    simp only [adc, h.operand_value_eq]
    exact (h.operand opcode m).addWithCarry hc _
  case hsbc =>
    intro m s t h
    simp only [sbc, h.operand_value_eq, (h.operand opcode m).sbcTwos_eq]
    exact (h.operand opcode m).addWithCarry hc _
  case hcmp =>
    intro r m s t h
    simp only [compareReg, h.operand_value_eq, (h.operand opcode m).readReg_eq]
    exact ((h.operand opcode m).writeFlag .c _).setZN _
  case hsm =>
    intro f m s t h
    have he := h.ea opcode m
    simp only [stepMem, h.ea_value_eq, he.busRead_value_eq]
    exact ((he.busRead _).busWrite _ _).setZN _
  case hsr =>
    intro f r s t h
    simp only [stepReg, h.readReg_eq]
    exact (h.writeReg r _).setZN _
  case hsa =>
    intro f s t h
    have ha : t.a = s.a := h.readReg_eq .a
    simp only [shiftA, ha, h.flags .c hc]
    exact ((h.writeReg .a _).writeFlag .c _).setZN _
  case hshm =>
    intro f m s t h
    have he := h.ea opcode m
    have hread := he.busRead (Machine.ea opcode m s).1
    simp only [shiftMem, h.ea_value_eq, he.busRead_value_eq, hread.flags .c hc]
    exact ((hread.busWrite _ _).writeFlag .c _).setZN _
  case hj =>
    intro m s t h
    simp only [jump, h.ea_value_eq]
    exact (h.ea opcode m).writePc _
  case hc =>
    intro m s t h
    simp only [call, h.ea_value_eq, (h.ea opcode m).pc_eq]
    exact ((h.ea opcode m).pushWord _).writePc _
  case hr =>
    intro s t h
    simp only [returnFromCall, h.pullWord_value_eq]
    exact h.pullWord.writePc _
  case hb => exact fun f value m hf s t h => h.branch (hseen f hf) value m opcode
  case ht => exact fun f value s t h => h.writeFlag f value
  case hbrk => exact fun hop s t h => h.enterInterrupt (h.pushedStatus_eq (hpushes (.inr hop)))
  case hid => exact fun s t h => h
  case hrti => exact fun s t h => h.returnFromInterrupt

end

/-! ### Whole instructions -/

/-- An instruction run from a variant of a state ends in a variant of its own result. -/
theorem Alike.exec {seen : List Flag} {n : Nat} {costs : List (Byte × Nat)} {i : Instr} {s s' t : State}
    (h : Alike seen n costs s s') (hseen : ∀ f ∈ [Flag.c, .z, .v, .n], f ∈ seen)
    (hpushes : i.mnemonic = .php ∨ i.mnemonic = .brk → ∀ f, f = .b ∨ f = .u ∨ f ∈ seen) (hexec : exec i s = .next t) :
    ∃ n' t', exec i s' = .next t' ∧ Alike seen n' costs t t' := by
  obtain ⟨⟨q, hq⟩, hflags⟩ := h.effect hseen hpushes i.addrMode i.opcode
  obtain ⟨n', hfinish⟩ := finish_varied i q n costs (Machine.effect i.mnemonic i.addrMode i.opcode s)
  refine ⟨n', _, exec_eq i s', ?_⟩
  rw [exec_next hexec]
  exact ⟨⟨q, by rw [hq, hfinish]⟩, fun f hf => by rw [getFlag_finish, getFlag_finish, hflags f hf]⟩

/-- Settles O21: the two results are variants of each other, and both runs charge the same cost. -/
theorem interruptDecimalBreakFlagsSteerNothing : Obligations.InterruptDecimalBreakFlagsSteerNothing := by
  intro i s t p' seen hcases hflags hexec
  have hseen : ∀ f ∈ [Flag.c, .z, .v, .n], f ∈ seen := by
    rcases hcases with rfl | ⟨rfl, -⟩ <;> simp
  have hpushes : i.mnemonic = .php ∨ i.mnemonic = .brk → ∀ f, f = .b ∨ f = .u ∨ f ∈ seen := by
    intro hop f
    rcases hcases with rfl | ⟨-, hphp, hbrk⟩
    · cases f <;> simp
    · exact absurd hop (not_or.mpr ⟨hphp, hbrk⟩)
  have hstart : Alike seen s.cycles s.cfg.cycleOverrides s { s with p := p' } := ⟨⟨p', rfl⟩, hflags⟩
  obtain ⟨n', t', hexec', hend⟩ := hstart.exec hseen hpushes hexec
  have hcycles : t'.cycles = t.cycles := by
    rw [charged_exec hexec', charged_exec hexec, hend.bonus_eq]
  obtain ⟨⟨q, rfl⟩, hflags'⟩ := hend
  have hvaried : t.varied q n' s.cfg.cycleOverrides = { t with p := q } := by
    rw [State.varied, ← exec_cfg hexec, show n' = t.cycles from hcycles]
  rw [hvaried] at hexec' hflags'
  exact ⟨q, hexec', hflags'⟩

/-- Settles O22: the two results are variants of each other with all eight flags, and so all of P, the same. -/
theorem cyclesSteerNothing : Obligations.CyclesSteerNothing := by
  intro i s t n costs hexec
  have hstart : Alike [.c, .z, .i, .d, .b, .u, .v, .n] n costs s (s.varied s.p n costs) := ⟨⟨s.p, rfl⟩, fun _ _ => rfl⟩
  obtain ⟨n', t', hexec', ⟨q, rfl⟩, hflags⟩ :=
    hstart.exec (by simp) (fun _ f => by cases f <;> simp) hexec
  have hp : q = t.p := flags_determine_p (t := t.varied q n' costs) fun f => hflags f (by cases f <;> simp)
  rw [hp] at hexec'
  exact ⟨n', hexec'⟩

end Sys2Proof.Machine
end

section
/-! PROOFS of the family 20_memory.md: memory as reads and writes say (R41, R58), words of two bytes (R43, R44), a store
seen by the next fetch (R56), and the cells no write reaches (R52; assumption log 2). -/

namespace Sys2Proof.Machine

/-! ## Canonical memories are what reads say of them (R58) -/

theorem Memory.wfFrom_cons {low : Nat} {c : Host.Cell} {m : List Host.Cell} :
    Memory.wfFrom low (c :: m) = true ↔
      low ≤ c.1 ∧ c.1 < 65536 ∧ c.2 ≠ Memory.unlisted ∧ Memory.wfFrom (c.1 + 1) m = true := by
  simp only [Memory.wfFrom, Bool.and_eq_true, decide_eq_true_eq, bne_iff_ne, and_assoc]

theorem Memory.read_cons_self (c : Host.Cell) (m : List Host.Cell) : Memory.read (c :: m) c.1 = c.2 := if_pos rfl

theorem Memory.read_cons_other {c : Host.Cell} {k : Nat} (m : List Host.Cell) (h : c.1 ≠ k) :
    Memory.read (c :: m) k = Memory.read m k := if_neg h

/-- Below the bound of a canonical memory no cell is listed. -/
theorem Memory.read_below {low k : Nat} {m : List Host.Cell} (h : Memory.wfFrom low m = true) (hk : k < low) :
    Memory.read m k = Memory.unlisted := by
  induction m generalizing low with
  | nil => rfl
  | cons c m ih =>
    obtain ⟨hlow, -, -, htail⟩ := Memory.wfFrom_cons.mp h
    rw [Memory.read_cons_other m (by omega), ih htail (by omega)]

/-- The first cell a canonical memory lists is the lowest one that reads as listed. -/
theorem Memory.head_le_of_listed {low k : Nat} {c : Host.Cell} {m : List Host.Cell}
    (h : Memory.wfFrom low (c :: m) = true) (hk : Memory.read (c :: m) k ≠ Memory.unlisted) : c.1 ≤ k := by
  obtain ⟨-, htop, hlisted, htail⟩ := Memory.wfFrom_cons.mp h
  by_contra hlt
  exact hk (Memory.read_below (Memory.wfFrom_cons.mpr ⟨le_rfl, htop, hlisted, htail⟩) (by omega))

/-- Canonical memories that read alike list the same cells: the first one is the lowest that reads as listed. -/
theorem Memory.eq_of_read_eq {low low' : Nat} {m m' : List Host.Cell} (h : Memory.wfFrom low m = true)
    (h' : Memory.wfFrom low' m' = true) (hread : ∀ k, Memory.read m k = Memory.read m' k) : m = m' := by
  induction m generalizing low low' m' with
  | nil =>
    cases m' with
    | nil => rfl
    | cons d m' =>
      obtain ⟨-, -, hd, -⟩ := Memory.wfFrom_cons.mp h'
      exact absurd ((Memory.read_cons_self d m').symm.trans (hread d.1).symm) hd
  | cons c m ih =>
    obtain ⟨-, -, hc, htail⟩ := Memory.wfFrom_cons.mp h
    cases m' with
    | nil => exact absurd ((Memory.read_cons_self c m).symm.trans (hread c.1)) hc
    | cons d m' =>
      obtain ⟨-, -, hd, htail'⟩ := Memory.wfFrom_cons.mp h'
      have hcd : c.1 ≤ d.1 := Memory.head_le_of_listed h (by rwa [hread, Memory.read_cons_self])
      have hdc : d.1 ≤ c.1 := Memory.head_le_of_listed h' (by rwa [← hread, Memory.read_cons_self])
      have haddr : c.1 = d.1 := Nat.le_antisymm hcd hdc
      have hcell : c = d := Prod.ext haddr <| by
        rw [← Memory.read_cons_self c m, hread, haddr, Memory.read_cons_self]
      subst hcell
      congr 1
      refine ih htail htail' fun k => ?_
      by_cases hk : c.1 = k
      · rw [Memory.read_below htail (by omega), Memory.read_below htail' (by omega)]
      · rw [← Memory.read_cons_other m hk, hread, Memory.read_cons_other m' hk]

theorem Memory.write_comm {m : List Host.Cell} {k j : Nat} (v w : Byte) (h : Memory.wf m = true) (hk : k < 65536)
    (hj : j < 65536) (hne : k ≠ j) :
    Memory.write k v (Memory.write j w m) = Memory.write j w (Memory.write k v m) := by
  refine Memory.eq_of_read_eq (Memory.wf_write v hk (Memory.wf_write w hj h))
    (Memory.wf_write w hj (Memory.wf_write v hk h)) fun l => ?_
  simp only [Memory.read_write]
  by_cases hl : l = k
  · rw [if_pos hl, if_neg (by omega), if_pos hl]
  · rw [if_neg hl, if_neg hl]

theorem Memory.write_write_same {m : List Host.Cell} {k : Nat} (v w : Byte) (h : Memory.wf m = true) (hk : k < 65536) :
    Memory.write k v (Memory.write k w m) = Memory.write k v m := by
  refine Memory.eq_of_read_eq (Memory.wf_write v hk (Memory.wf_write w hk h)) (Memory.wf_write v hk h) fun l => ?_
  simp only [Memory.read_write]
  by_cases hl : l = k
  · rw [if_pos hl, if_pos hl]
  · rw [if_neg hl, if_neg hl, if_neg hl]

theorem Memory.write_read_self {m : List Host.Cell} {k : Nat} (h : Memory.wf m = true) (hk : k < 65536) :
    Memory.write k (Memory.read m k) m = m := by
  refine Memory.eq_of_read_eq (Memory.wf_write _ hk h) h fun l => ?_
  rw [Memory.read_write]
  split
  · next hl => rw [hl]
  · rfl

/-- A bus read of memory, plain or ROM, after a bus write in plain RAM (R41). -/
theorem busRead_busWrite_value {addr b : Word} {s : State} (v : Byte) (hram : isRam s.cfg addr = true)
    (hmem : isExternal s.cfg b = false) :
    (busRead b (busWrite addr v s)).1 = if b = addr then v else (busRead b s).1 := by
  rw [busRead_value, busRead_value, busAnswer_memory (s := busWrite addr v s) hmem, busAnswer_memory hmem, busWrite_mem,
    if_pos hram, Memory.read_write]
  simp only [BitVec.toNat_inj]

/-- Settles O23: canonical memories that read alike are equal (`Memory.eq_of_read_eq`), and `Memory.read_write` says what
each side of the three write laws reads. -/
theorem memoryIsWhatReadsSay : Obligations.MemoryIsWhatReadsSay :=
  ⟨fun _ _ v _ => busRead_busWrite_value v, fun _ _ => Memory.eq_of_read_eq, fun _ _ _ v w h hk hj =>
    ⟨Memory.write_comm v w h hk hj, Memory.write_write_same v w h hk, Memory.write_read_self h hk⟩⟩

/-! ## Words (R43, R44) -/

theorem made_busWriteWord (addr w : Word) (s : State) :
    Made [.write addr (lo w), .write (addr + 1) (hi w)] s (busWriteWord addr w s) :=
  (made_busWrite addr (lo w) s).trans (made_busWrite (addr + 1) (hi w) _) rfl

/-- The two bytes of a word lie at two addresses, at the top of the address space too. -/
theorem ne_add_one (addr : Word) : addr ≠ addr + 1 := by bv_omega

/-- In plain RAM a word write leaves the two bytes of the word. -/
theorem stored_busWriteWord (addr w : Word) (s : State) :
    Stored addr (lo w) s (busWriteWord addr w s) ∧ Stored (addr + 1) (hi w) s (busWriteWord addr w s) := by
  refine ⟨fun hram => ?_, stored_busWrite (addr + 1) (hi w) (busWrite addr (lo w) s)⟩
  have hkeep : Memory.read (busWriteWord addr w s).mem addr.toNat = Memory.read (busWrite addr (lo w) s).mem addr.toNat := by
    refine keepsCells_busWrite (addr + 1) (hi w) _ _ fun a ha => ?_
    obtain rfl := List.mem_singleton.mp ha
    exact fun he => ne_add_one addr (BitVec.eq_of_toNat_eq he.symm)
  exact hkeep.trans (stored_busWrite addr (lo w) s hram)

theorem busReadWord_busWriteWord {addr : Word} (w : Word) {s : State} (hlow : isRam s.cfg addr = true)
    (hhigh : isRam s.cfg (addr + 1) = true) : (busReadWord addr (busWriteWord addr w s)).1 = w := by
  obtain ⟨hlo, hhi⟩ := stored_busWriteWord addr w s
  have hextLow : isExternal (busWriteWord addr w s).cfg addr = false := isExternal_of_isRam hlow
  have hextHigh : isExternal (busWriteWord addr w s).cfg (addr + 1) = false := isExternal_of_isRam hhigh
  rw [busReadWord, busReadPair_eq, busAnswer_memory hextLow, busAnswer_memory hextHigh, hlo hlow, hhi hhigh,
    joinBytes_hi_lo]

/-- Settles O24: a word read is a pointer read of two addresses in a row (`busReadPair_eq`). -/
theorem wordsAreLittleEndian : Obligations.WordsAreLittleEndian :=
  ⟨fun addr s => busReadPair_eq addr (addr + 1) s, made_busWriteWord, fun _ w _ => busReadWord_busWriteWord w⟩

/-! ## A store is seen by the next fetch (R56) -/

/-- STA, STX and STY store their register. -/
theorem effect_of_store {op : Mnemonic} {r : Reg} (h : (op, r) ∈ [(Mnemonic.sta, Reg.a), (.stx, .x), (.sty, .y)])
    (m : AddrMode) : effect op (some m) = store r m := by
  simp only [List.mem_cons, Prod.mk.injEq, List.not_mem_nil, or_false] at h
  obtain ⟨rfl, rfl⟩ | ⟨rfl, rfl⟩ | ⟨rfl, rfl⟩ := h <;> rfl

/-- In plain RAM the opcode the next Step fetches is the cell at PC. -/
theorem fetchOpcode_of_isRam {s : State} (h : isRam s.cfg s.pc = true) :
    (fetchOpcode s).1 = Memory.read s.mem s.pc.toNat := by
  rw [fetchOpcode_eq]
  exact busAnswer_memory (isExternal_of_isRam h) []

/-- Settles O25: the store's cell (`store_spec`) is the one the fetch reads. -/
theorem nextFetchSeesTheStore : Obligations.NextFetchSeesTheStore := by
  intro i r m s t hstore hmode hram hexec hpc
  have hend : t = finish i (store r m i.opcode s) := by
    rw [exec_next hexec, hmode, effect_of_store hstore]
  obtain ⟨hstored, -⟩ := store_spec r m i.opcode s
  rw [← stored_finish _ _ i, ← hend] at hstored
  rw [fetchOpcode_of_isRam (by rwa [exec_cfg hexec, hpc]), hpc]
  exact hstored hram

/-! ## No write reaches a cell outside plain RAM (R41, R52; assumption log 2) -/

/-- From `s` to `t` the parameters are the same and every cell outside plain RAM reads as before. -/
structure KeepsOutsideRam (s t : State) : Prop where
  cfg   : t.cfg = s.cfg
  cells : ∀ addr : Word, isRam s.cfg addr = false → Memory.read t.mem addr.toNat = Memory.read s.mem addr.toNat

theorem KeepsOutsideRam.of_mem {s t : State} (hcfg : t.cfg = s.cfg) (hmem : t.mem = s.mem) : KeepsOutsideRam s t :=
  ⟨hcfg, fun _ _ => by rw [hmem]⟩

theorem KeepsOutsideRam.trans {s t u : State} (h : KeepsOutsideRam s t) (h' : KeepsOutsideRam t u) :
    KeepsOutsideRam s u :=
  ⟨h'.cfg.trans h.cfg, fun addr ha => (h'.cells addr (by rwa [h.cfg])).trans (h.cells addr ha)⟩

/-- What changes neither memory nor the parameters may come after. -/
theorem KeepsOutsideRam.to {s t u : State} (h : KeepsOutsideRam s t) (hcfg : u.cfg = s.cfg) (hmem : u.mem = t.mem) :
    KeepsOutsideRam s u :=
  ⟨hcfg, fun addr ha => by rw [hmem, h.cells addr ha]⟩

theorem keepsOutsideRam_busWrite (addr : Word) (v : Byte) (s : State) : KeepsOutsideRam s (busWrite addr v s) :=
  ⟨rfl, fun b hb => busWrite_outside_ram addr b v hb⟩

theorem keepsOutsideRam_push8 (v : Byte) (s : State) : KeepsOutsideRam s (push8 v s) :=
  (keepsOutsideRam_busWrite (stackAddr s) v s).to rfl rfl

theorem keepsOutsideRam_pushWord (w : Word) (s : State) : KeepsOutsideRam s (pushWord w s) :=
  (keepsOutsideRam_push8 (hi w) s).trans (keepsOutsideRam_push8 (lo w) _)

section
variable (m : AddrMode) (opcode : Byte) (s : State)

theorem keepsOutsideRam_ea : KeepsOutsideRam s (ea opcode m s).2 := .of_mem (ea_cfg opcode m s) (ea_mem opcode m s)

theorem keepsOutsideRam_store (r : Reg) : KeepsOutsideRam s (store r m opcode s) :=
  (keepsOutsideRam_ea m opcode s).trans (keepsOutsideRam_busWrite _ _ _)

/-- The shape of every read-modify-write operation. -/
theorem keepsOutsideRam_readThenWrite (new : Byte) :
    KeepsOutsideRam s (busWrite (ea opcode m s).1 new (busRead (ea opcode m s).1 (ea opcode m s).2).2) :=
  ((keepsOutsideRam_ea m opcode s).to (u := (busRead _ _).2) (ea_cfg opcode m s) rfl).trans
    (keepsOutsideRam_busWrite _ new _)

theorem keepsOutsideRam_stepMem (f : Byte → Byte) : KeepsOutsideRam s (stepMem f m opcode s) :=
  (keepsOutsideRam_readThenWrite m opcode s _).to (ea_cfg opcode m s) rfl

theorem keepsOutsideRam_shiftMem (f : Bool → Byte → Byte × Bool) : KeepsOutsideRam s (shiftMem f m opcode s) :=
  (keepsOutsideRam_readThenWrite m opcode s _).to (ea_cfg opcode m s) rfl

theorem keepsOutsideRam_call (w : Word) : KeepsOutsideRam s (call (.abs w) opcode s) := by
  rw [call_eq]
  exact (keepsOutsideRam_pushWord (s.pc + 1) s).to rfl (writePc_mem w _)

theorem keepsOutsideRam_enterInterrupt : KeepsOutsideRam s (enterInterrupt s) := by
  obtain ⟨-, -, -, -, -, -, hframe, -⟩ := enterInterrupt_spec s
  have hpushes := (keepsOutsideRam_pushWord (s.pc + 1) s).trans (keepsOutsideRam_push8 (pushedStatus s.p) _)
  exact hpushes.to hframe.cfg (enterInterrupt_mem s)

end

/-- EXECUTE keeps every cell outside plain RAM: an instruction changes no memory at all, or does so by bus writes and
pushes. -/
theorem keepsOutsideRam_effect (i : Instr) (s : State) :
    KeepsOutsideRam s (effect i.mnemonic i.addrMode i.opcode s) := by
  by_cases hwrites : ruleWritesMemory i = false
  · exact .of_mem (keepsParameters_effect ..).cfg ((keepsRow_effect i s).mem hwrites)
  cases i
  case staZp | staZpx | staAbs | staAbx | staAby | staIzx | staIzy => exact keepsOutsideRam_store _ _ s .a
  case stxZp | stxZpy | stxAbs => exact keepsOutsideRam_store _ _ s .x
  case styZp | styZpx | styAbs => exact keepsOutsideRam_store _ _ s .y
  case pha | php => exact keepsOutsideRam_push8 _ s
  case incZp | incZpx | incAbs | incAbx | decZp | decZpx | decAbs | decAbx => exact keepsOutsideRam_stepMem _ _ s _
  case aslZp | aslZpx | aslAbs | aslAbx | lsrZp | lsrZpx | lsrAbs | lsrAbx => exact keepsOutsideRam_shiftMem _ _ s _
  case rolZp | rolZpx | rolAbs | rolAbx | rorZp | rorZpx | rorAbs | rorAbx => exact keepsOutsideRam_shiftMem _ _ s _
  case jsr w => exact keepsOutsideRam_call _ s w
  case brk => exact keepsOutsideRam_enterInterrupt s
  -- no other row marks memory as written
  all_goals exact absurd rfl hwrites

theorem keepsOutsideRam_exec {i : Instr} {s t : State} (h : exec i s = .next t) : KeepsOutsideRam s t := by
  rw [exec_next h]
  exact (keepsOutsideRam_effect i s).trans (.of_mem (finish_cfg i _) (finish_mem i _))

/-- A ROM answers as before where its cells are kept. -/
theorem KeepsOutsideRam.busRead_rom {s t : State} (h : KeepsOutsideRam s t) {addr : Word}
    (hrom : backing s.cfg addr = some .rom) : (busRead addr t).1 = (busRead addr s).1 := by
  have hmem : isExternal s.cfg addr = false := isExternal_of_rom hrom
  rw [busRead_of_not_external hmem, busRead_of_not_external (by rwa [h.cfg])]
  exact h.cells addr (isRam_of_rom hrom)

/-- Settles O54: a bus write changes a cell of plain RAM or none, and the other operations change memory by bus writes. -/
theorem cellsOutsidePlainRamAreKept : Obligations.CellsOutsidePlainRamAreKept := by
  refine ⟨fun addr v s h => ?_, fun v s h => ?_, fun i s t addr hexec hram => ?_⟩
  · rw [busWrite_mem, h, if_neg Bool.false_ne_true]
  · rw [push8_mem, h, if_neg Bool.false_ne_true]
  · have hkeep := keepsOutsideRam_exec hexec
    exact ⟨hkeep.cells addr hram, hkeep.busRead_rom⟩

end Sys2Proof.Machine
end

section
/-! PROOFS of the family 30_encoding.md: decoder and encoder undo each other (R60 to R70), the tables of the rules and the
opcode table are one table (R67), the unpopulated bytes (R68), and the checks of R71. -/

namespace Sys2Proof.Machine

/-! ## The rows of the opcode table and the tables of the rules (R67, R71) -/

/-- Every rule's table is part of the opcode table, and its rows are the rule's own mnemonic's. -/
theorem ruleRows_in_table : (Laws.WellFormedRow.mnemonics.all fun op => (ruleRows op).all fun d =>
    table d.opcode == some d && d.op == op) = true := by decide +kernel

theorem table_of_ruleRows {op : Mnemonic} {d : Descriptor} (h : d ∈ ruleRows op) :
    table d.opcode = some d ∧ d.op = op := by
  have hrows := List.all_eq_true.mp ruleRows_in_table op (Laws.WellFormedRow.mnemonics_complete op)
  simpa using List.all_eq_true.mp hrows d h

/-- Every row of the opcode table stands in the table of its mnemonic's rule. -/
theorem allEntries_in_ruleRows : (allEntries.all fun e => (ruleRows e.1.op).contains e.1) = true := by decide +kernel

theorem mem_ruleRows_of_table {b : Byte} {d : Descriptor} (h : table b = some d) : d ∈ ruleRows d.op := by
  obtain ⟨e, hlookup, rfl⟩ := table_some h
  obtain ⟨hmem, -⟩ := lookup_some hlookup
  simpa using List.all_eq_true.mp allEntries_in_ruleRows e (mapRow_subset _ hmem)

/-- A populated byte is the opcode of some instruction. -/
theorem exists_instr_of_table {b : Byte} {d : Descriptor} (h : table b = some d) : ∃ i : Instr, i.opcode = b := by
  obtain ⟨e, hlookup, -⟩ := table_some h
  exact ⟨e.2 0 0, make_opcode_of_lookup hlookup 0 0⟩

/-- What `Laws.WellFormedRow.table_of_instr` says, of the row that a lookup of the opcode has found. -/
theorem row_of_instr {i : Instr} {d : Descriptor} (h : table i.opcode = some d) :
    d.wellFormed = true ∧ d.op = i.mnemonic ∧ d.mode = i.tag ∧ d.length = i.length := by
  obtain ⟨d', hd', hrow⟩ := Laws.WellFormedRow.table_of_instr i
  obtain rfl : d' = d := Option.some.inj (hd'.symm.trans h)
  exact hrow

theorem opcode_of_table {b : Byte} {d : Descriptor} (h : table b = some d) : d.opcode = b := by
  obtain ⟨e, hlookup, rfl⟩ := table_some h
  exact (lookup_some hlookup).2

/-- Every row of the opcode table is well formed (R71). -/
theorem wellFormed_of_table {b : Byte} {d : Descriptor} (h : table b = some d) : d.wellFormed = true := by
  obtain ⟨i, rfl⟩ := exists_instr_of_table h
  exact (row_of_instr h).1

theorem Descriptor.wellFormed_iff (d : Descriptor) : d.wellFormed = true ↔
    d.operandAgrees = true ∧ d.indirectOnlyJmp = true ∧ d.accumulatorOnlyShift = true ∧ d.relativeIffBranch = true ∧
      d.noImmediateStore = true ∧ d.lengthAgrees = true := by
  simp only [Descriptor.wellFormed, Bool.and_eq_true, and_assoc]

/-- Settles O4: the two lists of rows hold each other, and an instruction's opcode byte is looked up as its own row. -/
theorem ruleTablesAreTheInstructions : Obligations.RuleTablesAreTheInstructions := by
  refine ⟨fun op d hrow => ?_, fun i => ?_⟩
  · obtain ⟨htable, hop⟩ := table_of_ruleRows hrow
    obtain ⟨i, hopcode⟩ := exists_instr_of_table htable
    obtain ⟨-, hmnemonic, hmode, -⟩ := row_of_instr (hopcode ▸ htable)
    exact ⟨htable, i, hmnemonic.symm.trans hop, hopcode, hmode.symm⟩
  · obtain ⟨d, htable, -, hop, hmode, hlength⟩ := Laws.WellFormedRow.table_of_instr i
    exact ⟨d, hop ▸ mem_ruleRows_of_table htable, htable, opcode_of_table htable, hmode, hlength⟩

/-- Settles O3: a row is looked up at its own byte, and every row is well formed. -/
theorem opcodeTableInvariants : Obligations.OpcodeTableInvariants := fun _ d h =>
  ⟨opcode_of_table h, (Descriptor.wellFormed_iff d).mp (wellFormed_of_table h)⟩

/-! ## What the decoder answers (R60, R66) -/

theorem decode_of_table_none {b : Byte} (h : table b = none) (rest : List Byte) :
    decode (b :: rest) = .error (.illegalOpcode b) := by
  simp only [decode, table_none_iff.mp h]

theorem decode_of_takeOperands {b low high : Byte} {e : Entry} {bytes rest : List Byte} (hlookup : lookup b = some e)
    (htake : takeOperands e.1.length bytes = some (low, high, rest)) :
    decode (b :: bytes) = .ok (e.2 low high, rest) := by
  simp only [decode, hlookup, htake]

/-- The decoder accepts in one way only: a populated byte and as many operand bytes as its entry asks for. -/
theorem decode_ok {bytes rest : List Byte} {i : Instr} (h : decode bytes = .ok (i, rest)) :
    ∃ b operands e low high, bytes = b :: operands ∧ lookup b = some e ∧
      takeOperands e.1.length operands = some (low, high, rest) ∧ i = e.2 low high := by
  cases bytes with
  | nil => cases h
  | cons b operands =>
    simp only [decode] at h
    split at h
    · cases h
    · next e hlookup =>
      split at h
      · cases h
      · next low high rest' htake =>
        cases h
        exact ⟨b, operands, e, low, high, rfl, hlookup, htake, rfl⟩

/-- Settles O2: `illegalBytes` is the complement of the table, and the decoder looks up the first byte before it reads on. -/
theorem unpopulatedBytesAreTheListedOnes : Obligations.UnpopulatedBytesAreTheListedOnes :=
  ⟨rfl, by decide +kernel, fun b => ⟨table_eq_none_iff_illegal b,
    fun h => decode_of_table_none ((table_eq_none_iff_illegal b).mpr h)⟩⟩

/-! ## The operand bytes of an instruction (R61 to R63) -/

/-- The operand bytes of an addressing mode in ascending addresses: a word stands low byte first. -/
def operandBytes : AddrMode → List Byte
  | .imm v | .rel v | .zp v | .zpx v | .zpy v | .izx v | .izy v => [v]
  | .abs w | .abx w | .aby w | .ind w => [lo w, hi w]

/-- The bytes of an instruction after its opcode. -/
def bytesAfterOpcode (i : Instr) : List Byte := i.addrMode.elim [] operandBytes

theorem encode_eq (i : Instr) : encode i = i.opcode :: bytesAfterOpcode i := by cases i <;> rfl

/-- An instruction without an addressing mode is of one byte. -/
theorem tag_length_of_addrMode_none {i : Instr} (h : i.addrMode = none) : i.tag.length = 1 := by
  simp only [Instr.tag, h]
  split <;> rfl

/-- The decoder takes an instruction's own operand bytes back, with 0 for the ones it does not have. -/
theorem takeOperands_bytesAfterOpcode (i : Instr) (rest : List Byte) :
    takeOperands i.tag.length (bytesAfterOpcode i ++ rest) =
      some ((bytesAfterOpcode i).getD 0 0, (bytesAfterOpcode i).getD 1 0, rest) := by
  cases hmode : i.addrMode with
  | none =>
    rw [tag_length_of_addrMode_none hmode]
    simp only [bytesAfterOpcode, hmode]
    rfl
  | some m =>
    simp only [Instr.tag, bytesAfterOpcode, hmode]
    cases m <;> rfl

/-- A cell that joins its two operand bytes makes its instruction again from the two bytes of a word. -/
theorem make_of_lo_hi {e : Entry} {make : Word → Instr} (h : ∀ low high, e.2 low high = make (joinBytes high low))
    (w : Word) : e.2 (lo w) (hi w) = make w := by
  rw [h, joinBytes_hi_lo]

/-- The cell at an instruction's opcode makes the instruction from its own operand bytes. -/
theorem exists_lookup_makes (i : Instr) : ∃ e, lookup i.opcode = some e ∧
    e.2 ((bytesAfterOpcode i).getD 0 0) ((bytesAfterOpcode i).getD 1 0) = i := by
  -- once the opcode stands as a literal, without the operand, the lookup evaluates
  cases i <;> simp only [Instr.opcode, encode, List.headD_cons] <;> refine ⟨_, rfl, ?_⟩
  -- the formats of three bytes
  case ldaAbs w | ldaAbx w | ldaAby w | ldxAbs w | ldxAby w | ldyAbs w | ldyAbx w
    | staAbs w | staAbx w | staAby w | stxAbs w | styAbs w
    | andAbs w | andAbx w | andAby w | oraAbs w | oraAbx w | oraAby w | eorAbs w | eorAbx w | eorAby w | bitAbs w
    | adcAbs w | adcAbx w | adcAby w | sbcAbs w | sbcAbx w | sbcAby w
    | cmpAbs w | cmpAbx w | cmpAby w | cpxAbs w | cpyAbs w | incAbs w | incAbx w | decAbs w | decAbx w
    | aslAbs w | aslAbx w | lsrAbs w | lsrAbx w | rolAbs w | rolAbx w | rorAbs w | rorAbx w
    | jmpAbs w | jmpInd w | jsr w => exact make_of_lo_hi (fun _ _ => rfl) w
  all_goals rfl

/-- What the encoder writes the decoder gives back, with the bytes after it. -/
theorem decode_encode (i : Instr) (rest : List Byte) : decode (encode i ++ rest) = .ok (i, rest) := by
  obtain ⟨e, hlookup, hmakes⟩ := exists_lookup_makes i
  have htable : table i.opcode = some e.1 := by rw [table, hlookup, Option.map_some]
  have hlength : e.1.length = i.tag.length := (descriptor_of_instr htable).2.2
  have htake := takeOperands_bytesAfterOpcode i rest
  rw [← hlength] at htake
  rw [encode_eq, List.cons_append, decode_of_takeOperands hlookup htake, hmakes]

/-! ## What the decoder accepts the encoder writes -/

/-- A cell that reads operand bytes makes an instruction whose operand bytes are the ones read. -/
def KeepsOperands (e : Entry) : Prop := ∀ low high, bytesAfterOpcode (e.2 low high) = [low, high].take (e.1.length - 1)

theorem mapRow_keepsOperands (n : Nat) : ∀ e ∈ mapRow n, KeepsOperands e := by
  rw [← List.forall_iff_forall_mem]
  unfold mapRow
  split
  all_goals
    repeat' apply And.intro
    all_goals exact fun _ _ => by simp [bytesAfterOpcode, entry, Instr.addrMode, operandBytes]

/-- The operand bytes taken and the bytes left are the bytes there were. -/
theorem append_of_takeOperands {n : Nat} {bytes rest : List Byte} {low high : Byte}
    (h : takeOperands n bytes = some (low, high, rest)) : bytes = [low, high].take (n - 1) ++ rest := by
  unfold takeOperands at h
  split at h <;> cases h <;> rfl

/-- What the decoder accepts is what the encoder writes of the instruction it gives, before the bytes it leaves. -/
theorem eq_encode_append_of_decode {bytes rest : List Byte} {i : Instr} (h : decode bytes = .ok (i, rest)) :
    bytes = encode i ++ rest := by
  obtain ⟨b, operands, e, low, high, rfl, hlookup, htake, rfl⟩ := decode_ok h
  rw [encode_eq, make_opcode_of_lookup hlookup, mapRow_keepsOperands _ e (lookup_some hlookup).1, List.cons_append,
    ← append_of_takeOperands htake]

/-- Settles O1: an instruction is its opcode and its operand bytes, which the cell at the opcode joins and keeps. -/
theorem decodeAndEncodeAgree : Obligations.DecodeAndEncodeAgree :=
  ⟨fun i rest _ => decode_encode i rest,
    fun _ i _ h => ⟨Laws.WellFormedRow.every_instr i, eq_encode_append_of_decode h⟩⟩

/-- Settles O5: the encoder writes the accepted strings; the last two are a byte without an entry and a word cut short. -/
theorem specWordsDecodeAsWritten : Obligations.SpecWordsDecodeAsWritten :=
  ⟨decode_encode .brk [], decode_encode (.oraIzx 0x20) [], decode_encode .aslAcc [], decode_encode (.bpl 0x80) [],
    decode_encode (.jsr 0x0610) [], decode_encode (.bitZp 0x10) [], decode_encode (.jmpInd 0x1234) [],
    decode_encode (.staIzy 0x86) [], decode_encode (.stxZpy 0xFE) [], decode_encode (.ldaZpx 0x10) [],
    decode_encode (.ldxAby 0x02FF) [], decode_encode .nop [], decode_encode (.sbcImm 0x03) [], decode_encode .tax [],
    decode_encode .php [], decode_encode (.cpyZp 0x10) [], decode_encode (.incAbx 0x01FF) [], decode_encode .sei [],
    decode_encode .rti [], decode_of_table_none rfl [], rfl⟩

end Sys2Proof.Machine
end

section
/-! PROOFS of the family 40_execution_core.md: a Step runs the instruction whose bytes the bus answers at PC (R81 to R85, R93),
a halted core stands still (R89), every Step answers a next state (R91), and Run is repeated Step (R90). -/

namespace Sys2Proof.Machine

/-! ## The outcome of a Step (R81, R89, R91) -/

theorem step_of_halted {s : State} (h : s.halted = true) : step s = .next s := by rw [step, if_pos h]

theorem step_of_fetch_some {s u : State} {i : Instr} (hrun : s.halted = false) (h : fetch s = (some i, u)) :
    step s = exec i u := by
  simp only [step, hrun, h, Bool.false_eq_true, if_false]

theorem step_of_fetch_none {s : State} (hrun : s.halted = false) (h : (fetch s).1 = none) :
    step s = .next (takeIllegalOpcode (fetch s).2) := by
  have hfetch : fetch s = (none, (fetch s).2) := Prod.ext h rfl
  rw [step, hrun, hfetch]
  rfl

theorem exists_exec_next (i : Instr) (s : State) : ∃ t, exec i s = .next t := ⟨_, exec_eq i s⟩

/-- A Step stands still, runs an instruction or takes the illegal-opcode exception, and each answers a next state. -/
theorem exists_step_next (s : State) : ∃ t, step s = .next t := by
  cases hhalted : s.halted with
  | true => exact ⟨s, step_of_halted hhalted⟩
  | false =>
    rcases fetch_cases s with ⟨i, u, hfetch, -⟩ | ⟨hnone, -⟩
    · exact step_of_fetch_some hhalted hfetch ▸ exists_exec_next i u
    · exact ⟨_, step_of_fetch_none hhalted hnone⟩

/-- Settles O9: the outcomes of a Step, and of an instruction, are all next states. -/
theorem everyStepAnswersNext : Obligations.EveryStepAnswersNext := ⟨exists_step_next, exists_exec_next⟩

/-- Settles O7: the Step reads `halted` before it touches the bus, and Reset writes it. -/
theorem haltedStepChangesNothing : Obligations.HaltedStepChangesNothing := by
  intro s hhalted
  have hstep := step_of_halted hhalted
  refine ⟨hstep, ?_, rfl⟩
  simp only [stepReturn, hstep, hhalted]

/-! ## Run (R90) -/

theorem steps_succ {s t : State} (n : Nat) (h : step s = .next t) : steps (n + 1) s = steps n t := by
  simp only [steps, h]

theorem run_succ {s t : State} (n : Nat) (h : step s = .next t) :
    run (n + 1) s = if t.halted then .next t else run n t := by
  simp only [run, h]

/-- The Steps after the halt change nothing (R89). -/
theorem steps_of_halted (n : Nat) {s : State} (h : s.halted = true) : steps n s = .next s := by
  induction n with
  | zero => rfl
  | succ n ih => rw [steps_succ n (step_of_halted h), ih]

/-- Settles O15, by induction on the budget: the Steps that Run leaves out are Steps of a halted core. -/
theorem runIsRepeatedStep : Obligations.RunIsRepeatedStep := by
  intro n
  induction n with
  | zero => exact fun _ => rfl
  | succ n ih =>
    intro s
    obtain ⟨t, hstep⟩ := exists_step_next s
    rw [run_succ n hstep, steps_succ n hstep]
    split
    · next hhalted => exact (steps_of_halted n hhalted).symm
    · exact ih t

/-! ## The fetch of bytes the bus answers (R83, R84, R93) -/

/-- Read at ascending addresses from `addr` on, one after another, the bus answers these bytes. -/
def AnswersBytes (bytes : List Byte) (addr : Word) (s : State) : Prop :=
  ∀ k b, bytes[k]? = some b → busAnswer s (consecutive k addr) (addr + BitVec.ofNat 16 k) = b

/-- The transactions that read these bytes. -/
def readsOfBytes (bytes : List Byte) (addr : Word) : List BusAccess :=
  bytes.mapIdx fun k b => .read (addr + BitVec.ofNat 16 k) b

theorem add_ofNat_succ (addr : Word) (k : Nat) : addr + BitVec.ofNat 16 (k + 1) = addr + 1 + BitVec.ofNat 16 k := by
  rw [Nat.add_comm, BitVec.ofNat_add, ← BitVec.add_assoc]
  rfl

theorem readsOfBytes_cons (b : Byte) (bytes : List Byte) (addr : Word) :
    readsOfBytes (b :: bytes) addr = .read addr b :: readsOfBytes bytes (addr + 1) := by
  have hfirst : addr + BitVec.ofNat 16 0 = addr := BitVec.add_zero addr
  simp only [readsOfBytes, List.mapIdx_cons, hfirst, add_ofNat_succ]

/-- The first byte is the answer now, and the others are the answers after its read. -/
theorem AnswersBytes.cons {b : Byte} {bytes : List Byte} {addr : Word} {s : State} (h : AnswersBytes (b :: bytes) addr s) :
    busAnswer s [] addr = b ∧ AnswersBytes bytes (addr + 1) (busRead addr s).2 := by
  refine ⟨by simpa [consecutive] using h 0 b rfl, fun k c hk => ?_⟩
  have hanswer := h (k + 1) c hk
  rwa [add_ofNat_succ] at hanswer

theorem SameBus.answersBytes {s t : State} (h : SameBus s t) {bytes : List Byte} {addr : Word}
    (hbytes : AnswersBytes bytes addr s) : AnswersBytes bytes addr t :=
  fun k b hk => (h.busAnswer _ _).trans (hbytes k b hk)

/-- Reading as many bytes as the bus answers gives these bytes, and leaves their reads and no other trace. -/
theorem readBytes_of_answersBytes {bytes : List Byte} {addr : Word} {s : State} (h : AnswersBytes bytes addr s) :
    readBytes bytes.length addr s = (bytes, { s with
      bus := s.bus ++ readsOfBytes bytes addr
      busReads := s.busReads + bytes.length
      device := (afterReads (consecutive bytes.length addr) s).device }) := by
  induction bytes generalizing addr s with
  | nil => simp [readBytes, readsOfBytes, consecutive, afterReads]
  | cons b bytes ih =>
    obtain ⟨hfirst, hrest⟩ := h.cons
    simp only [List.length_cons, readBytes, ih hrest, readsOfBytes_cons, busRead_value, busRead_bus, busRead_busReads, hfirst,
      List.append_assoc, List.singleton_append, Nat.add_assoc, Nat.add_comm 1]
    rfl

/-- The bus sees of the state after FETCH what it sees of the state after the opcode read. -/
theorem sameBus_fetchOpcode (s : State) : SameBus (busRead s.pc s).2 (fetchOpcode s).2 := ⟨rfl, rfl, rfl, rfl⟩

/-- When the bus answers an instruction's bytes at PC, FETCH and DECODE give that instruction, and the state has moved one
past the opcode and read exactly those bytes (R83, R84, R93). -/
theorem fetch_of_answersBytes {i : Instr} {s : State} (h : AnswersBytes (encode i) s.pc s) :
    fetch s = (some i, { s with
      pc := s.pc + 1
      bonus := 0
      bus := readsOfBytes (encode i) s.pc
      busReads := s.busReads + i.length
      device := (afterReads (consecutive i.length s.pc) s).device }) := by
  obtain ⟨d, htable, -, -, -, hrow⟩ := Laws.WellFormedRow.table_of_instr i
  rw [encode_eq] at h
  obtain ⟨hopcode, hoperands⟩ := h.cons
  have hoperands := (sameBus_fetchOpcode s).answersBytes hoperands
  have hdecode : decode (i.opcode :: bytesAfterOpcode i) = .ok (i, []) := by
    rw [← encode_eq, ← List.append_nil (encode i), decode_encode]
  have hlength : i.length = (bytesAfterOpcode i).length + 1 := by rw [Instr.length, encode_eq, List.length_cons]
  have hdevice := (sameBus_fetchOpcode s).afterReads_device (consecutive (bytesAfterOpcode i).length (s.pc + 1))
  rw [fetchOpcode_eq, hopcode] at hoperands hdevice
  simp only [fetch, fetchOpcode_eq, hopcode, htable, hrow, hlength, Nat.add_sub_cancel, readBytes_of_answersBytes hoperands,
    hdecode, hdevice, encode_eq, readsOfBytes_cons, Nat.add_assoc, Nat.add_comm 1]
  rfl

/-- Settles O6: what FETCH leaves is the state the statement names. -/
theorem stepRunsTheDecodedInstruction : Obligations.StepRunsTheDecodedInstruction :=
  fun _ _ hrun hbytes => step_of_fetch_some hrun (fetch_of_answersBytes hbytes)

end Sys2Proof.Machine
end

section
/-! PROOFS of the family 41_addressing_modes.md: the plain modes (R101 to R105, R111), the indexed modes and their page-cross
bonus (R106, R107, R110, R113), zero-page pointers (R114, R109), and the operand read (R115). -/

namespace Sys2Proof.Machine

/-! ## Zero-page addresses (R103 to R105) -/

theorem zext_toNat (b : Byte) : (zext b).toNat = b.toNat := BitVec.toNat_setWidth_of_le (by decide)

/-- The sum of a zero-page address and an index stays in page 0. -/
theorem zext_add_toNat (z index : Byte) : (zext (z + index)).toNat = (z.toNat + index.toNat) % 256 := by
  rw [zext_toNat, BitVec.toNat_add]

/-- Settles O26: each plain mode is one address, and `zext` puts the zero-page ones in page 0. -/
theorem plainModesResolve : Obligations.PlainModesResolve := fun _ z _ s =>
  ⟨rfl, rfl, zext_toNat z, rfl, zext_add_toNat z s.x, rfl, zext_add_toNat z s.y, rfl, rfl⟩

/-! ## The page-cross charge (R113) and the indexed modes (R106, R107, R110) -/

/-- The table's column `cycle_bonus` and R113's list are one set of bytes. -/
theorem chargesPageCross_eq_contains : ∀ b : Byte, chargesPageCross b = pageCrossBytes.contains b := by decide +kernel

theorem chargesPageCross_iff (b : Byte) : chargesPageCross b = true ↔ b ∈ pageCrossBytes := by
  rw [chargesPageCross_eq_contains, List.contains_iff_mem]

theorem pageCrossed_iff (base target : Word) :
    pageCrossed base target = true ↔ base.toNat / 256 ≠ target.toNat / 256 := by
  rw [pageCrossed, bne_iff_ne, Ne, BitVec.toNat_inj.symm, hi_toNat, hi_toNat]

theorem indexed_toNat (opcode : Byte) (base : Word) (index : Byte) (s : State) :
    (indexed opcode base index s).1.toNat = (base.toNat + index.toNat) % 65536 := by
  rw [indexed, BitVec.toNat_add, zext_toNat]

/-- An index addition changes the bonus only: one cycle, for a charged opcode that left the base's page. -/
theorem indexed_state (opcode : Byte) (base : Word) (index : Byte) (s : State) :
    (indexed opcode base index s).2 = { s with
      bonus := s.bonus + if opcode ∈ pageCrossBytes ∧
        base.toNat / 256 ≠ (indexed opcode base index s).1.toNat / 256 then 1 else 0 } := by
  simp only [indexed, Bool.and_eq_true, chargesPageCross_iff, pageCrossed_iff]
  split
  · rfl
  · rfl

/-- Settles O27: the three modes are `indexed` on the operand's word or, for IZY, on the pointer's, whose reads add no bonus. -/
theorem indexedModesResolve : Obligations.IndexedModesResolve :=
  ⟨chargesPageCross_iff, fun opcode z w s =>
    ⟨indexed_toNat opcode w s.x s, indexed_state opcode w s.x s,
      indexed_toNat opcode w s.y s, indexed_state opcode w s.y s,
      indexed_toNat opcode (readPtrZp z s).1 s.y (readPtrZp z s).2,
      indexed_state opcode (readPtrZp z s).1 s.y (readPtrZp z s).2⟩⟩

/-! ## Zero-page pointers (R114, R109) -/

/-- The pointer's high byte at 0xFF lies at 0x00 or, without the parameter, at 0x0100. -/
theorem zpPtrHigh_toNat (c : Config) (zp : Byte) :
    (zpPtrHigh c zp).toNat = if c.zpPtrWrap then (zp.toNat + 1) % 256 else zp.toNat + 1 := by
  rw [zpPtrHigh]
  split
  · exact zext_add_toNat zp 1
  · have hlt : zp.toNat + 1 < 2 ^ 16 := by have := zp.isLt; omega
    rw [BitVec.toNat_add, zext_toNat]
    exact Nat.mod_eq_of_lt hlt

/-- Settles O28: `readPtrZp` is a pair of reads (`busReadPair_eq`), and IZX adds X before it. -/
theorem zeroPagePointersResolve : Obligations.ZeroPagePointersResolve := by
  intro opcode zp s
  have hlow : BitVec.ofNat 16 zp.toNat = zext zp := BitVec.ofNat_toNat 16 zp
  have hsum : BitVec.ofNat 8 ((zp.toNat + s.x.toNat) % 256) = zp + s.x := by
    rw [← BitVec.toNat_add, BitVec.ofNat_toNat, BitVec.setWidth_eq]
  refine ⟨⟨zpPtrHigh s.cfg zp, zpPtrHigh_toNat s.cfg zp, ?_⟩, hsum ▸ rfl⟩
  rw [readPtrZp, busReadPair_eq, hlow]
  exact ⟨joinBytes_toNat _ _, rfl⟩

/-! ## The operand (R115) -/

theorem busRead_eq (addr : Word) (s : State) : busRead addr s = (busAnswer s [] addr, { s with
    bus := s.bus ++ [.read addr (busAnswer s [] addr)]
    busReads := s.busReads + 1
    device := (afterReads [addr] s).device }) := rfl

theorem operand_eq_busRead (opcode : Byte) {m : AddrMode} (s : State) (h : ∀ d, m ≠ .imm d ∧ m ≠ .rel d) :
    operand opcode m s = busRead (ea opcode m s).1 (ea opcode m s).2 := by
  cases m with
  | imm d => exact absurd rfl (h d).1
  | rel d => exact absurd rfl (h d).2
  | _ => rfl

/-- Settles O29: IMM and REL hold the fetched byte, and every other mode reads the bus once, at its effective address. -/
theorem operandsAreReadAtTheEffectiveAddress : Obligations.OperandsAreReadAtTheEffectiveAddress := by
  refine fun opcode m s => ⟨?_, fun hread => ?_⟩
  · rintro d (rfl | rfl)
    · rfl
    · rfl
  · rw [operand_eq_busRead opcode s hread, busRead_eq]

end Sys2Proof.Machine
end

section
/-! PROOFS of the family 42_load_store.md: the loads (R121 to R123) and the stores (R124 to R126), in every mode. -/

namespace Sys2Proof.Machine

/-- LDA, LDX and LDY load their register. -/
theorem effect_of_load {op : Mnemonic} {r : Reg} (h : (op, r) ∈ [(Mnemonic.lda, Reg.a), (.ldx, .x), (.ldy, .y)])
    (m : AddrMode) : effect op (some m) = load r m := by
  simp only [List.mem_cons, Prod.mk.injEq, List.not_mem_nil, or_false] at h
  obtain ⟨rfl, rfl⟩ | ⟨rfl, rfl⟩ | ⟨rfl, rfl⟩ := h <;> rfl

theorem loadsPc_of_load {op : Mnemonic} {r : Reg} (h : (op, r) ∈ [(Mnemonic.lda, Reg.a), (.ldx, .x), (.ldy, .y)]) :
    loadsPc op = false :=
  (by decide : ∀ row ∈ [(Mnemonic.lda, Reg.a), (.ldx, .x), (.ldy, .y)], loadsPc row.1 = false) _ h

theorem loadsPc_of_store {op : Mnemonic} {r : Reg} (h : (op, r) ∈ [(Mnemonic.sta, Reg.a), (.stx, .x), (.sty, .y)]) :
    loadsPc op = false :=
  (by decide : ∀ row ∈ [(Mnemonic.sta, Reg.a), (.stx, .x), (.sty, .y)], loadsPc row.1 = false) _ h

/-- Every instruction is a row of its rule's table (R67). -/
theorem encodedAsRule (i : Instr) : EncodedAsRule i := ruleTablesAreTheInstructions.2 i

/-- Settles O30: what `load` does (`load_spec`) stands after ACCOUNT and ADVANCE, which add the cost and the length. -/
theorem loadResult : Obligations.LoadResult := by
  intro i r m s hload hmode
  obtain ⟨hreg, hzn, hframe, htraffic, hclock⟩ := load_spec r m i.opcode s
  have hexec : exec i s = .next (finish i (load r m i.opcode s)) := by rw [exec_eq, hmode, effect_of_load hload]
  exact ⟨_, hexec, (readReg_finish r i _).trans hreg, (zeroNegativeOf_finish _ i _).mpr hzn, hframe.finish i,
    htraffic.finish i, charged_finish i hclock.cycles hframe.cfg, advanced_finish (loadsPc_of_load hload) hclock.pc,
    encodedAsRule i⟩

/-- Settles O31: what `store` does (`store_spec`) stands after ACCOUNT and ADVANCE, which write neither memory nor bus. -/
theorem storeResult : Obligations.StoreResult := by
  intro i r m s hstore hmode
  obtain ⟨hstored, hframe, hmade, hbonus, hclock⟩ := store_spec r m i.opcode s
  have hexec : exec i s = .next (finish i (store r m i.opcode s)) := by rw [exec_eq, hmode, effect_of_store hstore]
  exact ⟨_, hexec, (stored_finish _ _ i s _).mpr hstored, hframe.finish i, hmade.finish i, (finish_bonus i _).trans hbonus,
    charged_finish i hclock.cycles hframe.cfg, advanced_finish (loadsPc_of_store hstore) hclock.pc, encodedAsRule i⟩

end Sys2Proof.Machine
end

section
/-! PROOFS of the family 43_transfer_stack.md: the transfers (R130 to R135), Push8 and Pull8 (R136, R137), and the pushes and
pulls (R138 to R141). -/

namespace Sys2Proof.Machine

/-! ## The transfers (R130 to R135) -/

/-- TAX, TAY, TXA, TYA and TSX with their source and destination. -/
def transferRows : List (Mnemonic × Reg × Reg) :=
  [(.tax, .a, .x), (.tay, .a, .y), (.txa, .x, .a), (.tya, .y, .a), (.tsx, .sp, .x)]

theorem effect_of_transfer {op : Mnemonic} {src dst : Reg} (h : (op, src, dst) ∈ transferRows) (mode : Option AddrMode) :
    effect op mode = transfer src dst := by
  simp only [transferRows, List.mem_cons, Prod.mk.injEq, List.not_mem_nil, or_false] at h
  obtain ⟨rfl, rfl, rfl⟩ | ⟨rfl, rfl, rfl⟩ | ⟨rfl, rfl, rfl⟩ | ⟨rfl, rfl, rfl⟩ | ⟨rfl, rfl, rfl⟩ := h <;> rfl

theorem loadsPc_of_transfer {op : Mnemonic} {src dst : Reg} (h : (op, src, dst) ∈ transferRows) : loadsPc op = false :=
  (by decide : ∀ row ∈ transferRows, loadsPc row.1 = false) _ h

/-- Settles O32: what the two kinds of transfer do (`transfer_spec`, `transferPlain_spec`) stands after ACCOUNT and ADVANCE. -/
theorem transferResult : Obligations.TransferResult := by
  refine ⟨fun i src dst s htransfer => ?_, fun s => ?_⟩
  · obtain ⟨hreg, hzn, hframe, htraffic, hclock⟩ := transfer_spec src dst i.opcode s
    have hexec : exec i s = .next (finish i (transfer src dst i.opcode s)) := by rw [exec_eq, effect_of_transfer htransfer]
    exact ⟨_, hexec, (readReg_finish dst i _).trans hreg, (zeroNegativeOf_finish _ i _).mpr hzn, hframe.finish i,
      htraffic.finish i, charged_finish i hclock.cycles hframe.cfg,
      advanced_finish (loadsPc_of_transfer htransfer) hclock.pc, encodedAsRule i⟩
  · obtain ⟨hreg, hframe, htraffic, hclock⟩ := transferPlain_spec .x .sp Instr.txs.opcode s
    exact ⟨_, exec_eq .txs s, (finish_sp .txs _).trans hreg, hframe.finish .txs, htraffic.finish .txs,
      charged_finish .txs hclock.cycles hframe.cfg, advanced_finish rfl hclock.pc, encodedAsRule .txs⟩

/-! ## Push8 and Pull8 (R136, R137) -/

/-- On plain RAM a pull answers the byte just pushed: SP names the pushed slot again. -/
theorem pull8_push8_value (v : Byte) {s : State} (h : isRam s.cfg (slot s s.sp) = true) : (pull8 (push8 v s)).1 = v := by
  have hslot : slot (push8 v s) ((push8 v s).sp + 1) = slot s s.sp := by
    rw [push8_sp, BitVec.sub_add_cancel]
    exact slot_of_cfg (push8_cfg v s) s.sp
  have hmemory : isExternal (push8 v s).cfg (slot s s.sp) = false := isExternal_of_isRam h
  rw [pull8_value, hslot, busAnswer_memory hmemory]
  exact stored_push8 v s h

theorem pull8_push8_sp (v : Byte) (s : State) : (pull8 (push8 v s)).2.sp = s.sp := by
  rw [pull8_sp, push8_sp, BitVec.sub_add_cancel]

/-- Settles O33: a push and a pull are what `push8_spec` and `pull8_eq` say. -/
theorem stackPrimitives : Obligations.StackPrimitives := by
  refine ⟨fun v s => ?_, fun s => ?_, fun v s hram => ⟨pull8_push8_value v hram, pull8_push8_sp v s⟩⟩
  · obtain ⟨hstored, hsp, hframe, hmade, hbonus, hclock⟩ := push8_spec v s
    exact ⟨hstored, hsp ▸ decByte_toNat s.sp, hframe, hclock.pc, hclock.cycles, hbonus, hmade⟩
  · rw [pull8_eq]
    exact ⟨rfl, rfl⟩

/-! ## The pushes (R138, R139) -/

/-- PHA pushes A, and PHP pushes P with Break and Break2 set. -/
theorem effect_of_push {op : Mnemonic} (h : op = .pha ∨ op = .php) (mode : Option AddrMode) (opcode : Byte) (s : State) :
    effect op mode opcode s = push8 (if op = .pha then s.a else s.p ||| 0x30) s := by
  obtain rfl | rfl := h <;> rfl

theorem loadsPc_of_push {op : Mnemonic} (h : op = .pha ∨ op = .php) : loadsPc op = false := by
  obtain rfl | rfl := h <;> rfl

/-- Settles O34: what a push does (`push8_spec`) stands after ACCOUNT and ADVANCE. -/
theorem pushResult : Obligations.PushResult := by
  intro i s hpush v
  obtain ⟨hstored, hsp, hframe, hmade, hbonus, hclock⟩ := push8_spec v s
  have hexec : exec i s = .next (finish i (push8 v s)) := by rw [exec_eq, effect_of_push hpush]
  exact ⟨_, hexec, (stored_finish _ _ i s _).mpr hstored, (finish_sp i _).trans hsp, hframe.finish i, hmade.finish i,
    (finish_bonus i _).trans hbonus, charged_finish i hclock.cycles hframe.cfg,
    advanced_finish (loadsPc_of_push hpush) hclock.pc, encodedAsRule i⟩

/-! ## The pulls (R140, R141) -/

/-- An operation of a row that marks no memory changes nothing but the registers and flags the row marks. -/
theorem KeepsRow.frame {i : Instr} {s t : State} (h : KeepsRow i s t) (hrow : ruleWritesMemory i = false)
    (hcfg : t.cfg = s.cfg) : Frame (ruleWrites i).1 (ruleWrites i).2 [] s t :=
  ⟨h.regs, h.flags, keepsCells_of_mem (h.mem hrow), h.halted, hcfg⟩

theorem made_pull8 (s : State) :
    Made [.read (slot s (s.sp + 1)) (busAnswer s [] (slot s (s.sp + 1)))] s (pull8 s).2 :=
  ⟨pull8_bus s, pull8_busReads s, pull8_device s⟩

theorem pullA_spec (opcode : Byte) (s : State) :
    let v := busAnswer s [] (slot s (s.sp + 1))
    let t := pullA opcode s
    t.a = v ∧ t.sp = s.sp + 1 ∧ ZeroNegativeOf v t ∧ Frame [.a, .sp] [.z, .n] [] s t ∧
      Made [.read (slot s (s.sp + 1)) v] s t ∧ t.bonus = s.bonus ∧ KeepsClock s t := by
  have hframe := (keepsRow_pullA (i := .pla) s rfl).frame rfl rfl
  have hzn : ZeroNegativeOf (pull8 s).1 (pullA opcode s) := zeroNegativeOf_setZN _ _
  rw [pull8_value] at hzn
  exact ⟨pull8_value s, rfl, hzn, hframe, (made_pull8 s).to rfl rfl rfl, rfl, rfl, rfl⟩

theorem pullP_spec (opcode : Byte) (s : State) :
    let v := busAnswer s [] (slot s (s.sp + 1))
    let t := pullP opcode s
    t.p = (v &&& 0xEF) ||| 0x20 ∧ t.sp = s.sp + 1 ∧ Frame [.sp] [.c, .z, .i, .d, .b, .u, .v, .n] [] s t ∧
      Made [.read (slot s (s.sp + 1)) v] s t ∧ t.bonus = s.bonus ∧ KeepsClock s t := by
  have hframe := (keepsRow_pullP (i := .plp) s rfl).frame rfl rfl
  exact ⟨congrArg restoredStatus (pull8_value s), rfl, hframe, (made_pull8 s).to rfl rfl rfl, rfl, rfl, rfl⟩

/-- Settles O35: what the two pulls do (`pullA_spec`, `pullP_spec`) stands after ACCOUNT and ADVANCE. -/
theorem pullResult : Obligations.PullResult := by
  intro s addr v
  constructor
  · obtain ⟨ha, hsp, hzn, hframe, hmade, hbonus, hclock⟩ := pullA_spec Instr.pla.opcode s
    exact ⟨_, exec_eq .pla s, (finish_a .pla _).trans ha, (finish_sp .pla _).trans hsp,
      (zeroNegativeOf_finish _ .pla _).mpr hzn, hframe.finish .pla, hmade.finish .pla, (finish_bonus .pla _).trans hbonus,
      charged_finish .pla hclock.cycles hframe.cfg, advanced_finish rfl hclock.pc, encodedAsRule .pla⟩
  · obtain ⟨hp, hsp, hframe, hmade, hbonus, hclock⟩ := pullP_spec Instr.plp.opcode s
    exact ⟨_, exec_eq .plp s, (finish_p .plp _).trans hp, (finish_sp .plp _).trans hsp, hframe.finish .plp,
      hmade.finish .plp, (finish_bonus .plp _).trans hbonus, charged_finish .plp hclock.cycles hframe.cfg,
      advanced_finish rfl hclock.pc, encodedAsRule .plp⟩

end Sys2Proof.Machine
end

section
/-! PROOFS of the family 44_logical_bit.md: AND, ORA and EOR (R150 to R152) and BIT (R153), in every mode. -/

namespace Sys2Proof.Machine

/-! ## AND, ORA, EOR (R150 to R152) -/

/-- AND, ORA and EOR combine A and the operand by a byte operation that acts on each bit alone. -/
theorem effect_of_logical {op : Mnemonic} {f : Bool → Bool → Bool}
    (h : (op = .and ∧ f = and) ∨ (op = .ora ∧ f = or) ∨ (op = .eor ∧ f = xor)) (m : AddrMode) :
    ∃ g : Byte → Byte → Byte, effect op (some m) = logical g m ∧
      ∀ (v w : Byte) (k : Nat), (g v w).getLsbD k = f (v.getLsbD k) (w.getLsbD k) := by
  obtain ⟨rfl, rfl⟩ | ⟨rfl, rfl⟩ | ⟨rfl, rfl⟩ := h
  · exact ⟨(· &&& ·), rfl, fun _ _ _ => BitVec.getLsbD_and⟩
  · exact ⟨(· ||| ·), rfl, fun _ _ _ => BitVec.getLsbD_or⟩
  · exact ⟨(· ^^^ ·), rfl, fun _ _ _ => BitVec.getLsbD_xor⟩

theorem loadsPc_of_logical {op : Mnemonic} {f : Bool → Bool → Bool}
    (h : (op = .and ∧ f = and) ∨ (op = .ora ∧ f = or) ∨ (op = .eor ∧ f = xor)) : loadsPc op = false := by
  obtain ⟨rfl, -⟩ | ⟨rfl, -⟩ | ⟨rfl, -⟩ := h <;> rfl

/-- Settles O36: what `logical` does (`logical_spec`) stands after ACCOUNT and ADVANCE. -/
theorem logicalResult : Obligations.LogicalResult := by
  intro i f m s hlogical hmode o
  obtain ⟨g, heffect, hbits⟩ := effect_of_logical hlogical m
  obtain ⟨ha, hzn, hframe, htraffic, hclock⟩ := logical_spec g m i.opcode s
  have hexec : exec i s = .next (finish i (logical g m i.opcode s)) := by rw [exec_eq, hmode, heffect]
  have hresult : (finish i (logical g m i.opcode s)).a = g s.a o.1 := (finish_a i _).trans ha
  refine ⟨_, hexec, fun k _ => ?_, ?_, hframe.finish i, htraffic.finish i, charged_finish i hclock.cycles hframe.cfg,
    advanced_finish (loadsPc_of_logical hlogical) hclock.pc, encodedAsRule i⟩
  · rw [hresult, hbits]
  · rw [hresult]
    exact (zeroNegativeOf_finish _ i _).mpr hzn

/-! ## BIT (R153) -/

/-- A conjunction of two bytes is 0 exactly when they have no bit in common. -/
theorem and_beq_zero_iff (v w : Byte) :
    (v &&& w == 0) = true ↔ ∀ k < 8, (v.getLsbD k && w.getLsbD k) = false := by
  rw [beq_iff_eq, BitVec.eq_of_getLsbD_eq_iff]
  simp only [BitVec.getLsbD_and, BitVec.ofNat_eq_ofNat, BitVec.getLsbD_zero]

/-- Settles O37: what `bitTest` does (`bitTest_spec`) stands after ACCOUNT and ADVANCE. -/
theorem bitResult : Obligations.BitResult := by
  intro i m s hbit hmode o
  obtain ⟨hz, hn, hv, hframe, htraffic, hclock⟩ := bitTest_spec m i.opcode s
  have hexec : exec i s = .next (finish i (bitTest m i.opcode s)) := by rw [exec_eq, hmode, hbit]; rfl
  have hloads : loadsPc i.mnemonic = false := by rw [hbit]; rfl
  refine ⟨_, hexec, ?_, (getFlag_finish .n i _).trans hn, (getFlag_finish .v i _).trans hv, hframe.finish i,
    htraffic.finish i, charged_finish i hclock.cycles hframe.cfg, advanced_finish hloads hclock.pc, encodedAsRule i⟩
  rw [getFlag_finish, hz]
  exact and_beq_zero_iff s.a o.1

end Sys2Proof.Machine
end

section
/-! PROOFS of the family 45_arithmetic_compare.md: ADC (R160, R161), SBC (R162) and the compares (R163 to R166), in every
mode. -/

namespace Sys2Proof.Machine

/-! ## The adder in integers (R160) -/

theorem carryInt_eq_carryNat (c : Bool) : carryInt c = carryNat c := by cases c <;> rfl

theorem carryNat_le_one (c : Bool) : carryNat c ≤ 1 := by cases c <;> decide

theorem sumByte_toNat (a m : Byte) (c : Bool) : (sumByte a m c).toNat = wideSum a m c % 256 := BitVec.toNat_ofNat ..

/-- A byte as a signed number: 256 less from 128 on. -/
theorem toInt_byte_cases (v : Byte) :
    v.toNat < 128 ∧ v.toInt = v.toNat ∨ 128 ≤ v.toNat ∧ v.toInt = v.toNat - 256 := by
  rw [BitVec.toInt_eq_toNat_cond]
  split <;> omega

/-- The adder's formula compares signs: operand and A agree, and the result differs from both. -/
theorem addOverflow_iff_signs (a m r : Byte) :
    addOverflow a m r = true ↔ ¬(128 ≤ m.toNat ↔ 128 ≤ r.toNat) ∧ ¬(128 ≤ r.toNat ↔ 128 ≤ a.toNat) := by
  have hbit : addOverflow a m r = ((m ^^^ r) &&& (r ^^^ a)).getLsbD 7 := hasFlag_twoPow _ (by decide : 7 < 8)
  rw [hbit, BitVec.getLsbD_and, BitVec.getLsbD_xor, BitVec.getLsbD_xor, BitVec.getLsbD_last a, BitVec.getLsbD_last m,
    BitVec.getLsbD_last r]
  simp

/-- The signs tell overflow: the signed sum with the carry leaves -128..127 exactly when the formula says so. -/
theorem addOverflow_sumByte_iff (a m : Byte) (c : Bool) :
    addOverflow a m (sumByte a m c) = true ↔
      a.toInt + m.toInt + carryInt c < -128 ∨ 127 < a.toInt + m.toInt + carryInt c := by
  have ha := a.isLt
  have hm := m.isLt
  have hc := carryNat_le_one c
  rw [addOverflow_iff_signs, sumByte_toNat, wideSum, carryInt_eq_carryNat]
  obtain ⟨hva, hsa⟩ | ⟨hva, hsa⟩ := toInt_byte_cases a <;>
    obtain ⟨hvm, hsm⟩ | ⟨hvm, hsm⟩ := toInt_byte_cases m <;> omega

/-- `t` holds the sum of `a`, `m` and the carry, with its carry out and its signed overflow, as R160 gives them. -/
structure AddedWithCarry (a m : Byte) (c : Bool) (t : State) : Prop where
  sum      : (t.a.toNat : Int) = ((a.toNat : Int) + m.toNat + carryInt c) % 256
  carry    : getFlag .c t = true ↔ 255 < (a.toNat : Int) + m.toNat + carryInt c
  overflow : getFlag .v t = true ↔ a.toInt + m.toInt + carryInt c < -128 ∨ 127 < a.toInt + m.toInt + carryInt c

theorem addedWithCarry_addWithCarry (m : Byte) (s : State) :
    AddedWithCarry s.a m (getFlag .c s) (addWithCarry m s) := by
  obtain ⟨ha, hc, hv, -⟩ := addWithCarry_spec m s
  refine ⟨?_, ?_, ?_⟩
  · rw [ha, sumByte_toNat, wideSum, carryInt_eq_carryNat]; omega
  · rw [hc, decide_eq_true_iff, wideSum, carryInt_eq_carryNat]; omega
  · rw [hv, addOverflow_sumByte_iff]

theorem AddedWithCarry.finish {a m : Byte} {c : Bool} {t : State} (i : Instr) (h : AddedWithCarry a m c t) :
    AddedWithCarry a m c (finish i t) := by
  obtain ⟨hsum, hcarry, hoverflow⟩ := h
  exact ⟨by rwa [finish_a], by rwa [getFlag_finish], by rwa [getFlag_finish]⟩

/-- The row of R14 for ADC and SBC: A and four flags written, no memory, and PC left to ADVANCE. -/
theorem row_of_adder {i : Instr} (h : i.mnemonic = .adc ∨ i.mnemonic = .sbc) :
    ruleWrites i = ([.a], [.c, .z, .v, .n]) ∧ ruleWritesMemory i = false ∧ loadsPc i.mnemonic = false := by
  rw [ruleWrites, ruleWritesMemory]
  obtain h | h := h <;> rw [h] <;> exact ⟨rfl, rfl, rfl⟩

/-- What ADC and SBC have in common: the operand's read, the adder on a byte `v` made from it, ACCOUNT and ADVANCE. -/
theorem exec_adder {i : Instr} {m : AddrMode} {s : State} {v : Byte} (hop : i.mnemonic = .adc ∨ i.mnemonic = .sbc)
    (heffect : effect i.mnemonic i.addrMode i.opcode s = addWithCarry v (operand i.opcode m s).2) :
    ∃ t, exec i s = .next t ∧ AddedWithCarry s.a v (getFlag .c s) t ∧ ZeroNegativeOf t.a t ∧
      Frame [.a] [.c, .z, .v, .n] [] s t ∧ SameTraffic (operand i.opcode m s).2 t ∧
      Charged i s t ∧ Advanced i s t ∧ EncodedAsRule i := by
  obtain ⟨hrow, hmem, hloads⟩ := row_of_adder hop
  have hadded := addedWithCarry_addWithCarry v (operand i.opcode m s).2
  rw [operand_a, getFlag_operand] at hadded
  obtain ⟨-, -, -, hzn, hadder, htraffic, hclock⟩ := addWithCarry_spec v (operand i.opcode m s).2
  have hcfg := hadder.cfg.trans (operand_cfg i.opcode m s)
  have hframe := (keepsRow_addWithCarry m s v hrow).frame hmem hcfg
  rw [hrow] at hframe
  refine ⟨_, (exec_eq i s).trans (by rw [heffect]), hadded.finish i, ?_, hframe.finish i, htraffic.finish i,
    charged_finish i (hclock.cycles.trans (operand_cycles i.opcode m s)) hcfg,
    advanced_finish hloads (hclock.pc.trans (operand_pc i.opcode m s)), encodedAsRule i⟩
  rw [finish_a]
  exact (zeroNegativeOf_finish _ i _).mpr hzn

/-- Settles O38: ADC hands the operand itself to the adder. -/
theorem adcResult : Obligations.AdcResult := by
  intro i m s hadc hmode o c
  have heffect : effect i.mnemonic i.addrMode i.opcode s = addWithCarry o.1 o.2 := by rw [hadc, hmode]; rfl
  obtain ⟨t, hexec, ⟨hsum, hcarry, hoverflow⟩, hrest⟩ := exec_adder (.inl hadc) heffect
  exact ⟨t, hexec, hsum, hcarry, hoverflow, hrest⟩

/-! ## SBC (R162) -/

theorem sbcOperand_ones (m : Byte) : sbcOperand false m = ~~~m := BitVec.xor_allOnes

theorem toInt_not_byte (m : Byte) : (~~~m).toInt = -m.toInt - 1 := by
  have hm := m.isLt
  have hnot : (~~~m).toNat = 255 - m.toNat := BitVec.toNat_not
  obtain ⟨h, hs⟩ | ⟨h, hs⟩ := toInt_byte_cases m <;> obtain ⟨h', hs'⟩ | ⟨h', hs'⟩ := toInt_byte_cases (~~~m) <;> omega

/-- Adding the one's complement with the carry is subtracting with the borrow: C is the absence of a borrow. -/
theorem AddedWithCarry.subtracted {a m : Byte} {c : Bool} {t : State} (h : AddedWithCarry a (~~~m) c t) :
    let exact : Int := (a.toNat : Int) - m.toNat - (1 - carryInt c)
    let signed : Int := a.toInt - m.toInt - (1 - carryInt c)
    (t.a.toNat : Int) = exact % 256 ∧ (getFlag .c t = true ↔ 0 ≤ exact) ∧
      (getFlag .v t = true ↔ signed < -128 ∨ 127 < signed) := by
  have hm := m.isLt
  obtain ⟨hsum, hcarry, hoverflow⟩ := h
  rw [BitVec.toNat_not] at hsum hcarry
  rw [toInt_not_byte] at hoverflow
  refine ⟨?_, ?_, ?_⟩
  · omega
  · rw [hcarry]; omega
  · rw [hoverflow]; omega

/-- Settles O39: SBC hands the adder the operand's one's complement, or its negation under `P_SBC_TWOS`. -/
theorem sbcResult : Obligations.SbcResult := by
  intro i m s hsbc hmode o c
  have heffect : effect i.mnemonic i.addrMode i.opcode s = addWithCarry (sbcOperand s.cfg.sbcTwos o.1) o.2 := by
    rw [hsbc, hmode, ← operand_cfg i.opcode m s]; rfl
  obtain ⟨t, hexec, hadded, hrest⟩ := exec_adder (.inr hsbc) heffect
  refine ⟨t, hexec, fun hones => ?_, fun htwos => ?_, hrest⟩
  · rw [hones, sbcOperand_ones] at hadded
    exact hadded.subtracted
  · rw [htwos] at hadded
    obtain ⟨hsum, hcarry, hoverflow⟩ := hadded
    exact ⟨hsum, hcarry, hoverflow⟩

/-! ## CMP, CPX, CPY (R163 to R166) -/

/-- CMP, CPX and CPY with the register each compares. -/
def compareRows : List (Mnemonic × Reg) := [(.cmp, .a), (.cpx, .x), (.cpy, .y)]

theorem effect_of_compare {op : Mnemonic} {r : Reg} (h : (op, r) ∈ compareRows) (m : AddrMode) :
    effect op (some m) = compareReg r m := by
  simp only [compareRows, List.mem_cons, Prod.mk.injEq, List.not_mem_nil, or_false] at h
  obtain ⟨rfl, rfl⟩ | ⟨rfl, rfl⟩ | ⟨rfl, rfl⟩ := h <;> rfl

theorem loadsPc_of_compare {op : Mnemonic} {r : Reg} (h : (op, r) ∈ compareRows) : loadsPc op = false :=
  (by decide : ∀ row ∈ compareRows, loadsPc row.1 = false) _ h

/-- Z and N of a difference: equality, and bit 7 of the difference modulo 256. -/
theorem ZeroNegativeOf.difference {v w : Byte} {t : State} (h : ZeroNegativeOf (v - w) t) :
    (getFlag .z t = true ↔ v = w) ∧ (getFlag .n t = true ↔ 128 ≤ (v.toNat + (256 - w.toNat)) % 256) := by
  obtain ⟨hz, hn⟩ := h
  constructor
  · rw [hz, decide_eq_true_iff]
    exact sub_eq_zero
  · rw [hn, BitVec.getLsbD_last (v - w), decide_eq_true_iff, BitVec.toNat_sub, Nat.add_comm v.toNat]

/-- Settles O40: what `compareReg` does (`compareReg_spec`) stands after ACCOUNT and ADVANCE. -/
theorem compareResult : Obligations.CompareResult := by
  intro i r m s hcompare hmode o
  obtain ⟨hcarry, hzn, hframe, htraffic, hclock⟩ := compareReg_spec r m i.opcode s
  have hexec : exec i s = .next (finish i (compareReg r m i.opcode s)) := by
    rw [exec_eq, hmode, effect_of_compare hcompare]
  obtain ⟨hz, hn⟩ := ((zeroNegativeOf_finish _ i _).mpr hzn).difference
  refine ⟨_, hexec, ?_, hz, hn, hframe.finish i, htraffic.finish i, charged_finish i hclock.cycles hframe.cfg,
    advanced_finish (loadsPc_of_compare hcompare) hclock.pc, encodedAsRule i⟩
  rw [getFlag_finish, hcarry, decide_eq_true_iff]
  exact BitVec.le_def

end Sys2Proof.Machine
end

section
/-! PROOFS of the family 46_incdec_shift_rotate.md: INC and DEC (R170, R171), the register increments and decrements (R172 to
R175), and the shifts and rotates (R176 to R180). -/

namespace Sys2Proof.Machine

/-! ## INC, DEC (R170, R171) -/

/-- INC and DEC replace the memory byte by one that is 1, or 255, more modulo 256. -/
theorem effect_of_incDec {op : Mnemonic} (h : op = .inc ∨ op = .dec) (m : AddrMode) :
    ∃ f : Byte → Byte, effect op (some m) = stepMem f m ∧
      ∀ v, (f v).toNat = (v.toNat + if op = .inc then 1 else 255) % 256 := by
  obtain rfl | rfl := h
  · exact ⟨incByte, rfl, incByte_toNat⟩
  · exact ⟨decByte, rfl, decByte_toNat⟩

theorem loadsPc_of_incDec {op : Mnemonic} (h : op = .inc ∨ op = .dec) : loadsPc op = false := by
  obtain rfl | rfl := h <;> rfl

/-- Settles O41: what `stepMem` does (`stepMem_spec`) stands after ACCOUNT and ADVANCE. -/
theorem incrementMemoryResult : Obligations.IncrementMemoryResult := by
  intro i m s hincDec hmode e old
  obtain ⟨f, heffect, hnew⟩ := effect_of_incDec hincDec m
  obtain ⟨hstored, hzn, hframe, hmade, hbonus, hclock⟩ := stepMem_spec f m i.opcode s
  have hexec : exec i s = .next (finish i (stepMem f m i.opcode s)) := by rw [exec_eq, hmode, heffect]
  exact ⟨f old, _, hexec, hnew old, (stored_finish _ _ i s _).mpr hstored, (zeroNegativeOf_finish _ i _).mpr hzn,
    hframe.finish i, hmade.finish i, (finish_bonus i _).trans hbonus, charged_finish i hclock.cycles hframe.cfg,
    advanced_finish (loadsPc_of_incDec hincDec) hclock.pc, encodedAsRule i⟩

/-! ## INX, INY, DEX, DEY (R172 to R175) -/

/-- The register increments and decrements, with the register each changes and what it adds modulo 256. -/
def stepRegRows : List (Mnemonic × Reg × Nat) := [(.inx, .x, 1), (.iny, .y, 1), (.dex, .x, 255), (.dey, .y, 255)]

theorem effect_of_stepReg {op : Mnemonic} {r : Reg} {delta : Nat} (h : (op, r, delta) ∈ stepRegRows)
    (mode : Option AddrMode) :
    ∃ f : Byte → Byte, effect op mode = stepReg f r ∧ ∀ v, (f v).toNat = (v.toNat + delta) % 256 := by
  simp only [stepRegRows, List.mem_cons, Prod.mk.injEq, List.not_mem_nil, or_false] at h
  obtain ⟨rfl, rfl, rfl⟩ | ⟨rfl, rfl, rfl⟩ | ⟨rfl, rfl, rfl⟩ | ⟨rfl, rfl, rfl⟩ := h
  · exact ⟨incByte, rfl, incByte_toNat⟩
  · exact ⟨incByte, rfl, incByte_toNat⟩
  · exact ⟨decByte, rfl, decByte_toNat⟩
  · exact ⟨decByte, rfl, decByte_toNat⟩

theorem loadsPc_of_stepReg {op : Mnemonic} {r : Reg} {delta : Nat} (h : (op, r, delta) ∈ stepRegRows) :
    loadsPc op = false :=
  (by decide : ∀ row ∈ stepRegRows, loadsPc row.1 = false) _ h

/-- Settles O42: what `stepReg` does (`stepReg_spec`) stands after ACCOUNT and ADVANCE. -/
theorem incrementRegisterResult : Obligations.IncrementRegisterResult := by
  intro i r delta s hstep
  obtain ⟨f, heffect, hnew⟩ := effect_of_stepReg hstep i.addrMode
  obtain ⟨hreg, hzn, hframe, htraffic, hclock⟩ := stepReg_spec f r i.opcode s
  have hexec : exec i s = .next (finish i (stepReg f r i.opcode s)) := by rw [exec_eq, heffect]
  have hresult : readReg r (finish i (stepReg f r i.opcode s)) = f (readReg r s) := (readReg_finish r i _).trans hreg
  refine ⟨_, hexec, ?_, ?_, hframe.finish i, htraffic.finish i, charged_finish i hclock.cycles hframe.cfg,
    advanced_finish (loadsPc_of_stepReg hstep) hclock.pc, encodedAsRule i⟩
  · rw [hresult]
    exact hnew _
  · rw [hresult]
    exact (zeroNegativeOf_finish _ i _).mpr hzn

/-! ## ASL, LSR, ROL, ROR (R176 to R180) -/

/-- A byte shifted left by one bit, modulo 256. -/
theorem shiftLeft_one_toNat (v : Byte) : (v <<< 1).toNat = 2 * v.toNat % 256 := by
  rw [BitVec.toNat_shiftLeft, Nat.shiftLeft_eq, Nat.mul_comm]

/-- A byte shifted right by one bit. -/
theorem shiftRight_one_toNat (v : Byte) : (v >>> 1).toNat = v.toNat / 2 := by
  rw [BitVec.toNat_ushiftRight, Nat.shiftRight_eq_div_pow]

/-- A bit set where a byte has a 0 adds its weight. -/
theorem or_twoPow_toNat {v : Byte} {k : Nat} (hk : k < 8) (hv : v.getLsbD k = false) :
    (v ||| BitVec.twoPow 8 k).toNat = v.toNat + 2 ^ k := by
  have hdisjoint : v &&& BitVec.twoPow 8 k = 0#8 := by rw [BitVec.and_twoPow, hv, if_neg Bool.false_ne_true]
  rw [← BitVec.add_eq_or_of_and_eq_zero _ _ hdisjoint, BitVec.toNat_add_of_and_eq_zero hdisjoint,
    BitVec.toNat_twoPow_of_lt hk]

theorem shiftedAs_aslByte (c : Bool) (v : Byte) : ShiftedAs .asl c v (aslByte c v).1 (aslByte c v).2 :=
  ⟨shiftLeft_one_toNat v, rfl⟩

theorem shiftedAs_lsrByte (c : Bool) (v : Byte) : ShiftedAs .lsr c v (lsrByte c v).1 (lsrByte c v).2 :=
  ⟨shiftRight_one_toNat v, rfl⟩

/-- The old carry enters bit 0, which the shift has vacated. -/
theorem shiftedAs_rolByte (c : Bool) (v : Byte) : ShiftedAs .rol c v (rolByte c v).1 (rolByte c v).2 := by
  refine ⟨?_, rfl⟩
  cases c with
  | false => exact (congrArg BitVec.toNat BitVec.or_zero).trans (shiftLeft_one_toNat v)
  | true =>
    have hvacated : (v <<< 1).getLsbD 0 = false := by simp
    rw [if_pos rfl, ← shiftLeft_one_toNat]
    exact or_twoPow_toNat (by decide) hvacated

/-- The old carry enters bit 7, which the shift has vacated. -/
theorem shiftedAs_rorByte (c : Bool) (v : Byte) : ShiftedAs .ror c v (rorByte c v).1 (rorByte c v).2 := by
  refine ⟨?_, rfl⟩
  cases c with
  | false => exact (congrArg BitVec.toNat BitVec.or_zero).trans (shiftRight_one_toNat v)
  | true =>
    have hvacated : (v >>> 1).getLsbD 7 = false := by simp
    rw [if_pos rfl, ← shiftRight_one_toNat]
    exact or_twoPow_toNat (by decide) hvacated

/-- Each shift and rotate runs one byte operation, on A in the ACC form and on a memory byte in every mode. -/
theorem effect_of_shift {op : Mnemonic} (h : op.isShift = true) :
    ∃ f : Bool → Byte → Byte × Bool, effect op none = shiftA f ∧ (∀ m, effect op (some m) = shiftMem f m) ∧
      ∀ c v, ShiftedAs op c v (f c v).1 (f c v).2 := by
  cases op
  case asl => exact ⟨aslByte, rfl, fun _ => rfl, shiftedAs_aslByte⟩
  case lsr => exact ⟨lsrByte, rfl, fun _ => rfl, shiftedAs_lsrByte⟩
  case rol => exact ⟨rolByte, rfl, fun _ => rfl, shiftedAs_rolByte⟩
  case ror => exact ⟨rorByte, rfl, fun _ => rfl, shiftedAs_rorByte⟩
  -- no other mnemonic is a shift
  all_goals cases h

theorem loadsPc_of_shift {op : Mnemonic} (h : op.isShift = true) : loadsPc op = false := by
  cases op
  case asl | lsr | rol | ror => rfl
  all_goals cases h

/-- Settles O43: what `shiftA` and `shiftMem` do (`shiftA_spec`, `shiftMem_spec`) stands after ACCOUNT and ADVANCE. -/
theorem shiftResult : Obligations.ShiftResult := by
  refine ⟨fun i s hshift hmode => ?_, fun i m s hshift hmode => ?_⟩
  · obtain ⟨f, heffect, -, hshifted⟩ := effect_of_shift hshift
    obtain ⟨ha, hcarry, hzn, hframe, htraffic, hclock⟩ := shiftA_spec f i.opcode s
    have hexec : exec i s = .next (finish i (shiftA f i.opcode s)) := by rw [exec_eq, hmode, heffect]
    refine ⟨_, hexec, ?_, ?_, hframe.finish i, htraffic.finish i, charged_finish i hclock.cycles hframe.cfg,
      advanced_finish (loadsPc_of_shift hshift) hclock.pc, encodedAsRule i⟩
    · rw [finish_a, getFlag_finish, ha, hcarry]
      exact hshifted _ _
    · rw [finish_a, ha]
      exact (zeroNegativeOf_finish _ i _).mpr hzn
  · intro e old
    obtain ⟨f, -, heffect, hshifted⟩ := effect_of_shift hshift
    obtain ⟨hstored, hcarry, hzn, hframe, hmade, hbonus, hclock⟩ := shiftMem_spec f m i.opcode s
    have hexec : exec i s = .next (finish i (shiftMem f m i.opcode s)) := by rw [exec_eq, hmode, heffect]
    refine ⟨(f (getFlag .c s) old).1, _, hexec, ?_, (stored_finish _ _ i s _).mpr hstored,
      (zeroNegativeOf_finish _ i _).mpr hzn, hframe.finish i, hmade.finish i, (finish_bonus i _).trans hbonus,
      charged_finish i hclock.cycles hframe.cfg, advanced_finish (loadsPc_of_shift hshift) hclock.pc, encodedAsRule i⟩
    rw [getFlag_finish, hcarry]
    exact hshifted _ _

end Sys2Proof.Machine
end

section
/-! PROOFS of the family 47_jump_call_branch.md: JMP (R190), JSR and RTS (R191, R192), and the branches (R193 to R201). -/

namespace Sys2Proof.Machine

/-! ## JMP (R190, R108) -/

/-- The pointer's high byte lies in the pointer's page or, without the parameter, at the next address. -/
theorem indirectHigh_toNat (c : Config) (ptr : Word) : (indirectHigh c ptr).toNat =
    if c.jmpIndWrap then 256 * (ptr.toNat / 256) + (ptr.toNat + 1) % 256 else (ptr.toNat + 1) % 65536 := by
  rw [indirectHigh]
  split
  · have hone : (1 : Byte).toNat = 1 := rfl
    rw [joinBytes_toNat, hi_toNat, BitVec.toNat_add, lo_toNat, hone]
    omega
  · exact BitVec.toNat_add ptr 1

/-- Settles O44: the ABS form resolves to its operand, and the IND form to the word that the pair of pointer reads makes
(`busReadPair_eq`). -/
theorem jumpResult : Obligations.JumpResult := by
  refine fun w s => ⟨?_, indirectHigh s.cfg w, ?_⟩
  · obtain ⟨hpc, hframe, htraffic, hcycles⟩ := jump_spec (.abs w) (Instr.jmpAbs w).opcode s
    exact ⟨_, exec_eq (.jmpAbs w) s, (finish_pc_of_loadsPc rfl _).trans hpc, hframe.finish _, htraffic.finish _,
      charged_finish _ hcycles hframe.cfg, encodedAsRule _⟩
  · obtain ⟨hpc, hframe, ⟨hbus, hreads, hdevice, hbonus⟩, hcycles⟩ := jump_spec (.ind w) (Instr.jmpInd w).opcode s
    have hmade := (made_busReadPair w (indirectHigh s.cfg w) s).to hbus hreads hdevice
    refine ⟨_, exec_eq (.jmpInd w) s, indirectHigh_toNat s.cfg w, ?_, hframe.finish _, hmade.finish _,
      (finish_bonus _ _).trans hbonus, charged_finish _ hcycles hframe.cfg, encodedAsRule _⟩
    have hword : (ea (Instr.jmpInd w).opcode (.ind w) s).1 =
        joinBytes (busAnswer s [w] (indirectHigh s.cfg w)) (busAnswer s [] w) := by rw [ea, busReadPair_eq]
    rw [finish_pc_of_loadsPc rfl, ← joinBytes_toNat, ← hword]
    exact congrArg BitVec.toNat hpc

/-! ## JSR, RTS (R191, R192) -/

/-- Everything JSR's operation does: the push of a word (`pushWord_spec`), and the operand in PC. -/
theorem call_spec (w : Word) (opcode : Byte) (s : State) :
    let ret := s.pc + 1
    let t := call (.abs w) opcode s
    t.pc = w ∧ t.sp = s.sp - 2 ∧ Stored (slot s s.sp) (hi ret) s t ∧ Stored (slot s (s.sp - 1)) (lo ret) s t ∧
      Frame [.sp] [] [slot s s.sp, slot s (s.sp - 1)] s t ∧
      Made [.write (slot s s.sp) (hi ret), .write (slot s (s.sp - 1)) (lo ret)] s t ∧ t.bonus = s.bonus ∧
      t.cycles = s.cycles := by
  obtain ⟨hhigh, hlow, hsp, hframe, hmade, hbonus, hclock⟩ := pushWord_spec (s.pc + 1) s
  have hframe' : Frame [.sp] [] [slot s s.sp, slot s (s.sp - 1)] s (call (.abs w) opcode s) :=
    ⟨fun r hr => (readReg_writePc r w _).trans (hframe.regs r hr), hframe.flags, hframe.cells, hframe.halted, hframe.cfg⟩
  exact ⟨rfl, hsp, hhigh, hlow, hframe', hmade.to rfl rfl rfl, hbonus, hclock.cycles⟩

/-- Settles O45: what `call` does (`call_spec`) stands after ACCOUNT, and no length is added. -/
theorem jsrResult : Obligations.JsrResult := by
  intro w s ret
  obtain ⟨hpc, hsp, hhigh, hlow, hframe, hmade, hbonus, hcycles⟩ := call_spec w (Instr.jsr w).opcode s
  exact ⟨_, exec_eq (.jsr w) s, (finish_pc_of_loadsPc rfl _).trans hpc, (finish_sp _ _).trans hsp,
    (stored_finish _ _ _ s _).mpr hhigh, (stored_finish _ _ _ s _).mpr hlow, hframe.finish _, hmade.finish _,
    (finish_bonus _ _).trans hbonus, charged_finish _ hcycles hframe.cfg, encodedAsRule _⟩

/-- Everything RTS's operation does: the pull of a word (`pullWord_eq`), and PC one past it. -/
theorem returnFromCall_spec (opcode : Byte) (s : State) :
    let l := busAnswer s [] (slot s (s.sp + 1))
    let h := busAnswer s [slot s (s.sp + 1)] (slot s (s.sp + 2))
    let t := returnFromCall opcode s
    t.pc = joinBytes h l + 1 ∧ t.sp = s.sp + 2 ∧ Frame [.sp] [] [] s t ∧
      Made [.read (slot s (s.sp + 1)) l, .read (slot s (s.sp + 2)) h] s t ∧ t.bonus = s.bonus ∧ t.cycles = s.cycles := by
  have hframe : Frame [.sp] [] [] s (returnFromCall opcode s) := (keepsRow_returnFromCall (i := .rts) s rfl).frame rfl rfl
  rw [returnFromCall_eq, pullWord_eq] at hframe ⊢
  exact ⟨rfl, rfl, hframe, ⟨rfl, rfl, rfl⟩, rfl, rfl⟩

/-- Settles O46: what `returnFromCall` does (`returnFromCall_spec`) stands after ACCOUNT, and no length is added. -/
theorem rtsResult : Obligations.RtsResult := by
  intro s l h
  obtain ⟨hpc, hsp, hframe, hmade, hbonus, hcycles⟩ := returnFromCall_spec Instr.rts.opcode s
  refine ⟨_, exec_eq .rts s, ?_, (finish_sp _ _).trans hsp, hframe.finish _, hmade.finish _,
    (finish_bonus _ _).trans hbonus, charged_finish _ hcycles hframe.cfg, encodedAsRule _⟩
  have hfinish : (finish .rts (returnFromCall Instr.rts.opcode s)).pc = joinBytes h l + 1 :=
    (finish_pc_of_loadsPc rfl _).trans hpc
  rw [← joinBytes_toNat]
  exact (congrArg BitVec.toNat hfinish).trans (BitVec.toNat_add _ 1)

/-- The bus answers a byte stored in plain RAM in every later state whose cell and parameters are as the store left them. -/
theorem Stored.busAnswer {addr : Word} {v : Byte} {s t u : State} (h : Stored addr v s t) (hram : isRam s.cfg addr = true)
    (hcfg : u.cfg = s.cfg) (hcell : Memory.read u.mem addr.toNat = Memory.read t.mem addr.toNat) (prior : List Word) :
    busAnswer u prior addr = v := by
  rw [busAnswer_memory (by rw [hcfg]; exact isExternal_of_isRam hram), hcell, h hram]

/-- Settles O47: RTS finds at its two slots the bytes that JSR stored, and joins them again to the address JSR pushed. -/
theorem jsrThenRtsReturns : Obligations.JsrThenRtsReturns := by
  intro w s t u v hram hjsr husp hucfg hcells hrts
  obtain rfl := exec_next hjsr
  obtain rfl := exec_next hrts
  obtain ⟨-, hsp, hhigh, hlow, hframe, -⟩ := call_spec w (Instr.jsr w).opcode s
  obtain ⟨hpc, hsp', -⟩ := returnFromCall_spec Instr.rts.opcode u
  have hcfg : u.cfg = s.cfg := (hucfg.trans (finish_cfg _ _)).trans hframe.cfg
  have hbase : u.sp = s.sp - 2 := (husp.trans (finish_sp _ _)).trans hsp
  have hfirst : u.sp + 1 = s.sp - 1 := by rw [hbase]; bv_omega
  have hsecond : u.sp + 2 = s.sp := by rw [hbase, BitVec.sub_add_cancel]
  rw [hfirst, hsecond, slot_of_cfg hcfg, slot_of_cfg hcfg,
    ((stored_finish _ _ _ s _).mpr hhigh).busAnswer (hram _ (by simp)) hcfg (hcells _ (by simp)),
    ((stored_finish _ _ _ s _).mpr hlow).busAnswer (hram _ (by simp)) hcfg (hcells _ (by simp)), joinBytes_hi_lo] at hpc
  refine ⟨(finish_pc_of_loadsPc rfl _).trans (hpc.trans ?_), (finish_sp _ _).trans (hsp'.trans hsecond)⟩
  bv_omega

/-! ## The branches (R193 to R201) -/

/-- The branches with the flag each reads and the value it is taken on. -/
def branchRows : List (Mnemonic × Flag × Bool) :=
  [(.bcc, .c, false), (.bcs, .c, true), (.beq, .z, true), (.bne, .z, false), (.bmi, .n, true), (.bpl, .n, false),
    (.bvc, .v, false), (.bvs, .v, true)]

theorem effect_of_branch {op : Mnemonic} {f : Flag} {value : Bool} (h : (op, f, value) ∈ branchRows) (m : AddrMode) :
    effect op (some m) = branch f value m := by
  simp only [branchRows, List.mem_cons, Prod.mk.injEq, List.not_mem_nil, or_false] at h
  obtain ⟨rfl, rfl, rfl⟩ | ⟨rfl, rfl, rfl⟩ | ⟨rfl, rfl, rfl⟩ | ⟨rfl, rfl, rfl⟩ | ⟨rfl, rfl, rfl⟩ | ⟨rfl, rfl, rfl⟩ |
    ⟨rfl, rfl, rfl⟩ | ⟨rfl, rfl, rfl⟩ := h <;> rfl

theorem loadsPc_of_branch {op : Mnemonic} {f : Flag} {value : Bool} (h : (op, f, value) ∈ branchRows) :
    loadsPc op = true :=
  (by decide : ∀ row ∈ branchRows, loadsPc row.1 = true) _ h

/-- Adding a sign-extended byte to an address adds its signed value, modulo 65536. -/
theorem add_sext_toNat (addr : Word) (off : Byte) :
    ((addr + sext off).toNat : Int) = ((addr.toNat : Int) + off.toInt) % 65536 := by
  have hsext : (sext off).toInt = off.toInt := BitVec.toInt_signExtend_of_le (by decide)
  rw [BitVec.toInt_eq_toNat_cond] at hsext
  have hsum : (addr + sext off).toNat = (addr.toNat + (sext off).toNat) % 65536 := BitVec.toNat_add _ _
  split at hsext <;> omega

/-- The bonus of a branch that is taken: 1, or 2 when the target lies in another page. -/
theorem branchBonus_eq (next target : Word) :
    (if pageCrossed next target then 2 else 1) = if target.toNat / 256 = next.toNat / 256 then 1 else 2 := by
  simp only [pageCrossed_iff, ne_eq, ite_not, eq_comm (a := next.toNat / 256)]

/-- Settles O48: what `branch` does (`branch_spec`) stands after ACCOUNT, and no length is added. -/
theorem branchResult : Obligations.BranchResult := by
  intro i f value off s hbranch hmode next
  obtain ⟨htaken, hnot, hframe, hmade, hcycles⟩ := branch_spec f value off i.opcode s
  have hexec : exec i s = .next (finish i (branch f value (.rel off) i.opcode s)) := by
    rw [exec_eq, hmode, effect_of_branch hbranch]
  refine ⟨_, hexec, fun hflag => ?_, fun hflag => ?_, hframe.finish i, hmade.finish i, charged_finish i hcycles hframe.cfg,
    encodedAsRule i⟩
  · obtain ⟨hpc, hbonus⟩ := htaken hflag
    rw [finish_pc_of_loadsPc (loadsPc_of_branch hbranch), finish_bonus, hpc, hbonus, branchBonus_eq]
    exact ⟨add_sext_toNat next off, rfl⟩
  · rw [finish_pc_of_loadsPc (loadsPc_of_branch hbranch), finish_bonus]
    exact hnot hflag

end Sys2Proof.Machine
end

section
/-! PROOFS of the family 48_flag_system.md: the flag toggles (R210 to R216), BRK (R217), NOP (R218) and RTI (R219). -/

namespace Sys2Proof.Machine

/-! ## The flag toggles (R210 to R216) -/

/-- The flag toggles with the flag each writes and the value it writes. -/
def toggleRows : List (Mnemonic × Flag × Bool) :=
  [(.clc, .c, false), (.cld, .d, false), (.cli, .i, false), (.clv, .v, false), (.sec, .c, true), (.sed, .d, true),
    (.sei, .i, true)]

theorem effect_of_toggle {op : Mnemonic} {f : Flag} {value : Bool} (h : (op, f, value) ∈ toggleRows)
    (mode : Option AddrMode) : effect op mode = toggle f value := by
  simp only [toggleRows, List.mem_cons, Prod.mk.injEq, List.not_mem_nil, or_false] at h
  obtain ⟨rfl, rfl, rfl⟩ | ⟨rfl, rfl, rfl⟩ | ⟨rfl, rfl, rfl⟩ | ⟨rfl, rfl, rfl⟩ | ⟨rfl, rfl, rfl⟩ | ⟨rfl, rfl, rfl⟩ |
    ⟨rfl, rfl, rfl⟩ := h <;> rfl

theorem loadsPc_of_toggle {op : Mnemonic} {f : Flag} {value : Bool} (h : (op, f, value) ∈ toggleRows) :
    loadsPc op = false :=
  (by decide : ∀ row ∈ toggleRows, loadsPc row.1 = false) _ h

/-- Settles O49: what `toggle` does (`toggle_spec`) stands after ACCOUNT and ADVANCE. -/
theorem flagToggleResult : Obligations.FlagToggleResult := by
  intro i f value s htoggle
  obtain ⟨hflag, hframe, htraffic, hclock⟩ := toggle_spec f value i.opcode s
  have hexec : exec i s = .next (finish i (toggle f value i.opcode s)) := by rw [exec_eq, effect_of_toggle htoggle]
  exact ⟨_, hexec, (getFlag_finish f i _).trans hflag, hframe.finish i, htraffic.finish i,
    charged_finish i hclock.cycles hframe.cfg, advanced_finish (loadsPc_of_toggle htoggle) hclock.pc, encodedAsRule i⟩

/-! ## BRK, NOP, RTI (R217 to R219) -/

/-- Settles O50: what BRK's entry does (`enterInterrupt_spec`) stands after ACCOUNT, which writes neither memory nor bus. -/
theorem brkResult : Obligations.BrkResult := by
  intro s ret pushes
  obtain ⟨hpc, hhigh, hlow, hstatus, hsp, hi, hframe, hmade, hbonus, hcycles⟩ := enterInterrupt_spec s
  refine ⟨_, exec_eq .brk s, ⟨?_, hmade.finish _⟩, (stored_finish _ _ _ s _).mpr hhigh, (stored_finish _ _ _ s _).mpr hlow,
    (stored_finish _ _ _ s _).mpr hstatus, (finish_sp _ _).trans hsp, (getFlag_finish _ _ _).trans hi, hframe.finish _,
    (finish_bonus _ _).trans hbonus, charged_finish _ hcycles hframe.cfg, encodedAsRule _⟩
  rw [← joinBytes_toNat]
  exact congrArg BitVec.toNat ((finish_pc_of_loadsPc rfl _).trans hpc)

/-- Settles O51: NOP's operation is the identity, and its length adds nothing to PC. -/
theorem nopResult : Obligations.NopResult := by
  intro s
  have hpc : s.pc + BitVec.ofNat 16 (Instr.nop.length - 1) = s.pc := BitVec.add_zero s.pc
  have hexec : exec .nop s = retire .nop (fun _ t => t) s := rfl
  refine ⟨encodedAsRule .nop, ?_⟩
  rw [hexec, retire_eq, hpc]
  rfl

/-- Everything RTI's operation does: the three pulls of `returnFromInterrupt_eq`, and what they leave alone. -/
theorem returnFromInterrupt_spec (s : State) :
    let v := busAnswer s [] (slot s (s.sp + 1))
    let l := busAnswer s [slot s (s.sp + 1)] (slot s (s.sp + 2))
    let h := busAnswer s [slot s (s.sp + 1), slot s (s.sp + 2)] (slot s (s.sp + 3))
    let t := returnFromInterrupt s
    t.p = restoredStatus v ∧ t.pc = joinBytes h l ∧ t.sp = s.sp + 3 ∧
      Frame [.sp] [.c, .z, .i, .d, .b, .u, .v, .n] [] s t ∧
      Made [.read (slot s (s.sp + 1)) v, .read (slot s (s.sp + 2)) l, .read (slot s (s.sp + 3)) h] s t ∧
      t.bonus = s.bonus ∧ t.cycles = s.cycles := by
  have hframe : Frame [.sp] [.c, .z, .i, .d, .b, .u, .v, .n] [] s (returnFromInterrupt s) :=
    (keepsRow_returnFromInterrupt (i := .rti) s rfl).frame rfl rfl
  rw [returnFromInterrupt_eq] at hframe ⊢
  exact ⟨rfl, rfl, rfl, hframe, ⟨rfl, rfl, rfl⟩, rfl, rfl⟩

/-- Settles O52: what `returnFromInterrupt` does (`returnFromInterrupt_spec`) stands after ACCOUNT, and no length is added. -/
theorem rtiResult : Obligations.RtiResult := by
  intro s v l h
  obtain ⟨hp, hpc, hsp, hframe, hmade, hbonus, hcycles⟩ := returnFromInterrupt_spec s
  refine ⟨_, exec_eq .rti s, (finish_p _ _).trans hp, ?_, (finish_sp _ _).trans hsp, hframe.finish _, hmade.finish _,
    (finish_bonus _ _).trans hbonus, charged_finish _ hcycles hframe.cfg, encodedAsRule _⟩
  rw [← joinBytes_toNat]
  exact congrArg BitVec.toNat ((finish_pc_of_loadsPc rfl _).trans hpc)

end Sys2Proof.Machine
end

section
/-! PROOFS of the family 60_exceptions.md: the illegal-opcode exception (R231), and RTI after BRK (R239). -/

namespace Sys2Proof.Machine

/-! ## IllegalOpcode (R231) -/

/-- The Step of a running core that takes the illegal-opcode exception, with the whole state it leaves. -/
theorem step_of_illegal {s : State} {b : Byte} (hrun : s.halted = false) (hillegal : b ∈ illegalBytes)
    (hb : busAnswer s [] s.pc = b) : step s = .next { s with
      pc := s.pc + 1
      halted := true
      bonus := 0
      bus := [.read s.pc b]
      busReads := s.busReads + 1
      device := (afterReads [s.pc] s).device } := by
  have hfetch := fetch_of_table_none ((table_eq_none_iff_illegal _).mpr (hb ▸ hillegal))
  rw [step_of_fetch_none hrun (congrArg Prod.fst hfetch), hfetch, fetchOpcode_eq, hb]
  rfl

/-- Settles O8: the host's later look at PC - 1 meets the cell that FETCH has read. -/
theorem illegalOpcodeHaltsThere : Obligations.IllegalOpcodeHaltsThere := by
  intro s b hrun hillegal hb
  have hstep := step_of_illegal hrun hillegal hb
  refine ⟨_, hstep, by rw [stepReturn, hstep], rfl, fun hmemory => ?_⟩
  have hcell : Memory.read s.mem s.pc.toNat = b := (busAnswer_memory hmemory []).symm.trans hb
  rw [reportedFault, if_pos rfl, BitVec.add_sub_cancel, busValue_eq, busAnswer_memory]
  · rw [hcell]
  · exact hmemory

/-! ## RTI after BRK (R219, R239) -/

/-- Status pulled as BRK has pushed it: Break is 0, Break2 is 1, and the other flags are as they were. -/
theorem getFlag_restored_pushedStatus (f : Flag) {s t : State} (h : t.p = restoredStatus (pushedStatus s.p)) :
    getFlag f t = if f = .b then false else if f = .u then true else getFlag f s := by
  have hrestored : getFlag f t = if f = .b then false else if f = .u then true else (pushedStatus s.p).getLsbD f.pos := by
    rw [getFlag, h]
    exact getFlag_restoredStatus f (pushedStatus s.p) s
  rw [hrestored, show (pushedStatus s.p).getLsbD f.pos = _ from getFlag_pushedStatus f s]
  cases f <;> rfl

/-- Settles O53: RTI finds at its three slots the bytes that BRK stored, and joins two of them again to the address BRK
pushed. -/
theorem brkThenRtiRestores : Obligations.BrkThenRtiRestores := by
  intro s t u v hram hbrk husp hucfg hcells hrti
  obtain rfl := exec_next hbrk
  obtain rfl := exec_next hrti
  obtain ⟨-, hhigh, hlow, hstatus, hsp, -, hframe, -⟩ := enterInterrupt_spec s
  obtain ⟨hp, hpc, hsp', -⟩ := returnFromInterrupt_spec u
  have hcfg : u.cfg = s.cfg := (hucfg.trans (finish_cfg _ _)).trans hframe.cfg
  have hbase : u.sp = s.sp - 3 := (husp.trans (finish_sp _ _)).trans hsp
  have hfirst : u.sp + 1 = s.sp - 2 := by rw [hbase]; bv_omega
  have hsecond : u.sp + 2 = s.sp - 1 := by rw [hbase]; bv_omega
  have hthird : u.sp + 3 = s.sp := by rw [hbase, BitVec.sub_add_cancel]
  rw [hfirst, slot_of_cfg hcfg,
    ((stored_finish _ _ _ s _).mpr hstatus).busAnswer (hram _ (by simp)) hcfg (hcells _ (by simp))] at hp
  rw [hfirst, hsecond, hthird, slot_of_cfg hcfg, slot_of_cfg hcfg, slot_of_cfg hcfg,
    ((stored_finish _ _ _ s _).mpr hhigh).busAnswer (hram _ (by simp)) hcfg (hcells _ (by simp)),
    ((stored_finish _ _ _ s _).mpr hlow).busAnswer (hram _ (by simp)) hcfg (hcells _ (by simp)), joinBytes_hi_lo] at hpc
  have hflag := fun f => (getFlag_finish f .rti _).trans (getFlag_restored_pushedStatus f hp)
  have hother : ∀ f ∈ [Flag.c, .z, .i, .d, .v, .n], f ≠ .b ∧ f ≠ .u := by decide
  refine ⟨(finish_pc_of_loadsPc rfl _).trans hpc, (finish_sp _ _).trans (hsp'.trans hthird), hflag .b, hflag .u,
    fun f hf => ?_⟩
  obtain ⟨hb, hu⟩ := hother f hf
  exact (hflag f).trans ((if_neg hb).trans (if_neg hu))

end Sys2Proof.Machine
end

section
/-! PROOFS of the family 70_reset_and_hazards.md: creation (R250) and Reset (R251). -/

namespace Sys2Proof.Machine

/-- Settles O16: `State.createdOn` writes out each of the items. -/
theorem creationIsAllZero : Obligations.CreationIsAllZero :=
  fun _ => ⟨rfl, rfl, rfl, rfl, rfl, rfl, rfl, rfl, rfl, rfl⟩

/-- Settles O17: Reset's two reads are a pair of reads (`busReadPair_eq`), and the registers it writes before them are no part
of what the bus sees. -/
theorem resetEstablishesTheStartupState : Obligations.ResetEstablishesTheStartupState := by
  refine ⟨fun s => ?_, fun _ => rfl⟩
  have hsame : SameBus s { s with
      a := 0, x := 0, y := 0, sp := s.cfg.spReset, p := 0, halted := false, bonus := 0, bus := [] } := ⟨rfl, rfl, rfl, rfl⟩
  rw [hostReset, busReadWord, busReadPair_eq, hsame.busAnswer, hsame.busAnswer, hsame.afterReads_device]
  rfl

end Sys2Proof.Machine
end
